-- ==== Sys2Proof/Word.lean ====
section
/-! DEFINITION. The machine words of rule R10 and the plain containers the model is written with:
vectors of a fixed length (operand registers, buffers, channel-state arrays), tabulation, bounded
sums and in-order generation of a block of values. -/

namespace Sys2Proof

/-- `int16` (rules R10, R110): the externally observable word. Its signed value is `BitVec.toInt`. -/
abbrev I16 := BitVec 16

/-- `int32` (rule R10): correlations, energies and fixed-codebook gains. -/
abbrev I32 := BitVec 32

/-- A vector of exactly `n` elements: the shape of an operand register (R24), of a channel-state
array (R28, R29) and of a signal buffer (R60). Plain data: a list and the fact of its length. -/
structure Vec (α : Type) (n : Nat) where
  toList : List α
  len : toList.length = n
deriving DecidableEq, Repr

/-- `[f k, f (k+1), …, f (k+n-1)]`: the values of a `for` loop in ascending order (R15). -/
def tabFrom {α : Type} (f : Nat → α) : Nat → Nat → List α
  | _, 0 => []
  | k, n + 1 => f k :: tabFrom f (k + 1) n

theorem tabFrom_length {α : Type} (f : Nat → α) (k n : Nat) : (tabFrom f k n).length = n := by
  induction n generalizing k with
  | zero => rfl
  | succ n ih => simp [tabFrom, ih]

/-- The vector `(f 0, …, f (n-1))`. -/
def Vec.tab {α : Type} {n : Nat} (f : Nat → α) : Vec α n := ⟨tabFrom f 0 n, tabFrom_length f 0 n⟩

/-- Element `i`, or `d` where the vector has no element `i`. -/
def Vec.elD {α : Type} {n : Nat} (v : Vec α n) (i : Nat) (d : α) : α := v.toList.getD i d

/-- `v` with element `i` replaced by `a`; unchanged where there is no element `i`. -/
def Vec.set {α : Type} {n : Nat} (v : Vec α n) (i : Nat) (a : α) : Vec α n :=
  ⟨v.toList.set i a, by simp [v.len]⟩

/-- `v` with elements `lo .. lo+m-1` replaced by `f 0 .. f (m-1)`. -/
def Vec.patch {α : Type} {n : Nat} (v : Vec α n) (lo m : Nat) (f : Nat → α) (d : α) : Vec α n :=
  Vec.tab fun k => if lo ≤ k ∧ k < lo + m then f (k - lo) else v.elD k d

/-- `Σ_{i=0}^{n-1} f i`: every sum of the rules is exact (R15). -/
def sumN {α : Type} [Zero α] [Add α] (f : Nat → α) : Nat → α
  | 0 => 0
  | n + 1 => sumN f n + f n

/-- The list of `n` values in which value `k` is computed from the values before it: the shape of
every recursion that reads its own earlier outputs, in ascending order (R62). -/
def gen {α : Type} (f : List α → Nat → α) : Nat → List α
  | 0 => []
  | n + 1 =>
    let v := gen f n
    v ++ [f v n]

end Sys2Proof
end

