-- ==== Sys2Proof/Syntax.lean ====
section
/-! DEFINITION. What the host can give the block: the 34 commands of the opcode map (rule R82), one
constructor per row of spec/opcode_table.json, and the host's writes of operand registers (R21). -/

namespace Sys2Proof

/-- The role of a channel (R18, R22): field `a` of `CH.INIT`, held in `FCTL.ROLE`. -/
inductive Role where
  | enc
  | dec
deriving DecidableEq, Repr, Inhabited

/-- The subframe index `sf` of a command (R19): 0 or 1. -/
inductive Subframe where
  | first
  | second
deriving DecidableEq, Repr, Inhabited

/-- `sf` as a number (R19, R81). -/
def Subframe.idx : Subframe → Nat
  | .first => 0
  | .second => 1

/-- The commands: one constructor per row of the opcode map (R82). -/
inductive Instr where
  | chInit (role : Role)
  | chClose
  | frmBegin (bfi pe : Bool)
  | excMix (sf : Subframe)
  | updFrm
  | lpWin
  | lpAcorr
  | lpLag
  | lpLev
  | lspRoot
  | lspInterp
  | lspTolp (sf : Subframe)
  | lsfStab
  | lsfCos
  | lsfDec
  | pitCl (sf : Subframe)
  | pitInterp (sf : Subframe)
  | pitDec (sf : Subframe)
  | pitConv
  | fcbSearch (sf : Subframe)
  | fcbDec (sf : Subframe)
  | fcbConv
  | gainPred
  | gainQuant (sf : Subframe)
  | gainDec (sf : Subframe)
  | fltHp
  | fltSyn (sf : Subframe)
  | fltRes (sf : Subframe)
  | fltWgt (sf : Subframe)
  | pfRes (sf : Subframe)
  | pfLt (sf : Subframe)
  | pfTilt (sf : Subframe)
  | pfSt (sf : Subframe)
  | pfAgc (sf : Subframe)
deriving DecidableEq, Repr

/-- The 33 operand registers V0 to V32 of rule R24, in the rule's order. -/
inductive Reg where
  | pcm | wsig | r | rscale | rl | rc | a | eres | lsp | qlsf | qlsp | ilsp | aq | tol | x | h
  | t0 | t0f | t0min | t0max | acv | y | gpu | x2 | fcv | z | gcp | gp | gc | prm | tlt | pfout | k1
deriving DecidableEq, Repr

/-- Number of elements of a register (R24, column "shape"). A scalar is a vector of one element;
`AQ` (2 × 10) is laid out row after row, `AQ[sf][i]` being element `10·sf + i`. -/
@[reducible] def Reg.len : Reg → Nat
  | .pcm => 80 | .wsig => 240 | .r => 11 | .rscale => 1 | .rl => 11 | .rc => 10 | .a => 10
  | .eres => 1 | .lsp => 10 | .qlsf => 10 | .qlsp => 10 | .ilsp => 10 | .aq => 20 | .tol => 1
  | .x => 40 | .h => 40 | .t0 => 1 | .t0f => 1 | .t0min => 1 | .t0max => 1 | .acv => 40 | .y => 40
  | .gpu => 1 | .x2 => 40 | .fcv => 40 | .z => 40 | .gcp => 1 | .gp => 1 | .gc => 1 | .prm => 15
  | .tlt => 40 | .pfout => 80 | .k1 => 1

/-- Width of an element in bits (R24, column "type"): int8, int16 (`PRM`: uint16) or int32. -/
@[reducible] def Reg.width : Reg → Nat
  | .rscale => 8 | .t0f => 8
  | .r => 32 | .rl => 32 | .rc => 32 | .eres => 32 | .gcp => 32 | .gc => 32
  | .pcm => 16 | .wsig => 16 | .a => 16 | .lsp => 16 | .qlsf => 16 | .qlsp => 16 | .ilsp => 16
  | .aq => 16 | .tol => 16 | .x => 16 | .h => 16 | .t0 => 16 | .t0min => 16 | .t0max => 16
  | .acv => 16 | .y => 16 | .gpu => 16 | .x2 => 16 | .fcv => 16 | .z => 16 | .gp => 16 | .prm => 16
  | .tlt => 16 | .pfout => 16 | .k1 => 16

/-- A host write of consecutive elements of one operand register (R21): `vals` go to elements
`first`, `first + 1`, …. -/
structure HostWrite where
  reg : Reg
  first : Nat
  vals : List Int
deriving DecidableEq, Repr

end Sys2Proof
end

