-- ==== Sys2Proof/Decode.lean ====
section
/-! DEFINITION. The command word (rules R80 to R84): decoding, total on every 16-bit word and
rejecting by name, and encoding. -/

namespace Sys2Proof

/-- Why a word is reserved (R83, R84): its `op` is not in the opcode map, or its `op` is but a
must-be-zero bit is set. Both are the one refusal reason `reserved-encoding`. -/
inductive Reserved where
  /-- `op` is one of the 30 unassigned values. -/
  | unassignedOp
  /-- A bit the row's mask covers differs from the row's match. -/
  | mustBeZero
deriving DecidableEq, Repr

/-- Field `sf`, bit 9 (R80). -/
def sfField (w : BitVec 16) : Subframe := if w.getLsbD 9 then .second else .first

/-- Field `a`, bit 8, as a role (R80, `CH.INIT`). -/
def roleField (w : BitVec 16) : Role := if w.getLsbD 8 then .dec else .enc

/-- One row of the opcode map (R82): the word is the instruction iff `w & mask = match`. -/
def row (w mask pattern : BitVec 16) (i : Instr) : Except Reserved Instr :=
  if w &&& mask = pattern then .ok i else .error .mustBeZero

/-- Decode a command word (R83): the row is selected by `op = w[15:10]`, and every bit its mask
covers must equal its match. -/
def decode (w : BitVec 16) : Except Reserved Instr :=
  match (w.extractLsb' 10 6).toNat with
  | 0x01 => row w 0xFEFF 0x0400 (.chInit (roleField w))
  | 0x02 => row w 0xFFFF 0x0800 .chClose
  | 0x03 => row w 0xFE7F 0x0C00 (.frmBegin (w.getLsbD 8) (w.getLsbD 7))
  | 0x04 => row w 0xFDFF 0x1000 (.excMix (sfField w))
  | 0x05 => row w 0xFFFF 0x1400 .updFrm
  | 0x08 => row w 0xFFFF 0x2000 .lpWin
  | 0x09 => row w 0xFFFF 0x2400 .lpAcorr
  | 0x0A => row w 0xFFFF 0x2800 .lpLag
  | 0x0B => row w 0xFFFF 0x2C00 .lpLev
  | 0x10 => row w 0xFFFF 0x4000 .lspRoot
  | 0x11 => row w 0xFFFF 0x4400 .lspInterp
  | 0x12 => row w 0xFDFF 0x4800 (.lspTolp (sfField w))
  | 0x13 => row w 0xFFFF 0x4C00 .lsfStab
  | 0x14 => row w 0xFFFF 0x5000 .lsfCos
  | 0x15 => row w 0xFFFF 0x5400 .lsfDec
  | 0x18 => row w 0xFDFF 0x6000 (.pitCl (sfField w))
  | 0x19 => row w 0xFDFF 0x6400 (.pitInterp (sfField w))
  | 0x1A => row w 0xFDFF 0x6800 (.pitDec (sfField w))
  | 0x1B => row w 0xFFFF 0x6C00 .pitConv
  | 0x20 => row w 0xFDFF 0x8000 (.fcbSearch (sfField w))
  | 0x21 => row w 0xFDFF 0x8400 (.fcbDec (sfField w))
  | 0x22 => row w 0xFFFF 0x8800 .fcbConv
  | 0x28 => row w 0xFFFF 0xA000 .gainPred
  | 0x29 => row w 0xFDFF 0xA400 (.gainQuant (sfField w))
  | 0x2A => row w 0xFDFF 0xA800 (.gainDec (sfField w))
  | 0x30 => row w 0xFFFF 0xC000 .fltHp
  | 0x31 => row w 0xFDFF 0xC400 (.fltSyn (sfField w))
  | 0x32 => row w 0xFDFF 0xC800 (.fltRes (sfField w))
  | 0x33 => row w 0xFDFF 0xCC00 (.fltWgt (sfField w))
  | 0x38 => row w 0xFDFF 0xE000 (.pfRes (sfField w))
  | 0x39 => row w 0xFDFF 0xE400 (.pfLt (sfField w))
  | 0x3A => row w 0xFDFF 0xE800 (.pfTilt (sfField w))
  | 0x3B => row w 0xFDFF 0xEC00 (.pfSt (sfField w))
  | 0x3C => row w 0xFDFF 0xF000 (.pfAgc (sfField w))
  | _ => .error .unassignedOp

/-- `sf` put back into bit 9 (R80). -/
def sfBits : Subframe → BitVec 16
  | .first => 0x0000
  | .second => 0x0200

/-- The word of a command (R80, R82): `op` in bits 15:10, `sf` in bit 9, `a` in bit 8, `b` in
bit 7, every other bit 0. -/
def encode : Instr → BitVec 16
  | .chInit .enc => 0x0400
  | .chInit .dec => 0x0500
  | .chClose => 0x0800
  | .frmBegin bfi pe => 0x0C00 ||| (if bfi then 0x0100 else 0) ||| (if pe then 0x0080 else 0)
  | .excMix sf => 0x1000 ||| sfBits sf
  | .updFrm => 0x1400
  | .lpWin => 0x2000
  | .lpAcorr => 0x2400
  | .lpLag => 0x2800
  | .lpLev => 0x2C00
  | .lspRoot => 0x4000
  | .lspInterp => 0x4400
  | .lspTolp sf => 0x4800 ||| sfBits sf
  | .lsfStab => 0x4C00
  | .lsfCos => 0x5000
  | .lsfDec => 0x5400
  | .pitCl sf => 0x6000 ||| sfBits sf
  | .pitInterp sf => 0x6400 ||| sfBits sf
  | .pitDec sf => 0x6800 ||| sfBits sf
  | .pitConv => 0x6C00
  | .fcbSearch sf => 0x8000 ||| sfBits sf
  | .fcbDec sf => 0x8400 ||| sfBits sf
  | .fcbConv => 0x8800
  | .gainPred => 0xA000
  | .gainQuant sf => 0xA400 ||| sfBits sf
  | .gainDec sf => 0xA800 ||| sfBits sf
  | .fltHp => 0xC000
  | .fltSyn sf => 0xC400 ||| sfBits sf
  | .fltRes sf => 0xC800 ||| sfBits sf
  | .fltWgt sf => 0xCC00 ||| sfBits sf
  | .pfRes sf => 0xE000 ||| sfBits sf
  | .pfLt sf => 0xE400 ||| sfBits sf
  | .pfTilt sf => 0xE800 ||| sfBits sf
  | .pfSt sf => 0xEC00 ||| sfBits sf
  | .pfAgc sf => 0xF000 ||| sfBits sf

/-- The instruction the decoder reads from the table's bits `w` of a row of `nbits` bits. Every
command is one 16-bit word (R80); the host port carries whole words and has no byte order (R64). -/
def decodeTableWord (nbits w : Nat) : Option Instr :=
  match decode (BitVec.ofNat 16 (w % 2 ^ nbits)) with
  | .ok i => some i
  | .error _ => none

end Sys2Proof
end

