-- ==== Sys2Proof/Machine/Channel.lean ====
section
/-! DEFINITION. What a channel holds (R20), as plain data: the operand registers with their definedness
marks, the signal buffers, and the channel state of either role. -/

namespace Sys2Proof.Machine

/-! ## Operand registers (R24, R25) -/

/-- An operand register of `n` elements of `w` bits. Each element is defined and holds a word
(`some`), or is undefined (`none`): the definedness mark is the spec's own state (R14, R25). -/
abbrev RegVec (w n : Nat) := Vec (Option (BitVec w)) n

/-- The 33 operand registers of R24. -/
structure Regs where
  /-- V0 `PCM`: the frame of samples, in (encoder) or out (decoder). -/
  pcm : RegVec 16 80
  /-- V1 `WSIG`: windowed analysis signal. -/
  wsig : RegVec 16 240
  /-- V2 `R`: raw rescaled autocorrelation. -/
  r : RegVec 32 11
  /-- V3 `RSCALE`: the power of two `R` was rescaled by. -/
  rscale : RegVec 8 1
  /-- V4 `RL`: lag-windowed autocorrelation. -/
  rl : RegVec 32 11
  /-- V5 `RC`: reflection coefficients. -/
  rc : RegVec 32 10
  /-- V6 `A`: LP coefficients. -/
  a : RegVec 16 10
  /-- V7 `ERES`: final residual energy. -/
  eres : RegVec 32 1
  /-- V8 `LSP`. -/
  lsp : RegVec 16 10
  /-- V9 `QLSF`. -/
  qlsf : RegVec 16 10
  /-- V10 `QLSP`. -/
  qlsp : RegVec 16 10
  /-- V11 `ILSP`. -/
  ilsp : RegVec 16 10
  /-- V12 `AQ`: element `10·sf + i` is `AQ[sf][i]`. -/
  aq : RegVec 16 20
  /-- V13 `TOL`. -/
  tol : RegVec 16 1
  /-- V14 `X`. -/
  x : RegVec 16 40
  /-- V15 `H`. -/
  h : RegVec 16 40
  /-- V16 `T0`. -/
  t0 : RegVec 16 1
  /-- V17 `T0F`. -/
  t0f : RegVec 8 1
  /-- V18 `T0MIN`. -/
  t0min : RegVec 16 1
  /-- V19 `T0MAX`. -/
  t0max : RegVec 16 1
  /-- V20 `ACV`. -/
  acv : RegVec 16 40
  /-- V21 `Y`. -/
  y : RegVec 16 40
  /-- V22 `GPU`. -/
  gpu : RegVec 16 1
  /-- V23 `X2`. -/
  x2 : RegVec 16 40
  /-- V24 `FCV`. -/
  fcv : RegVec 16 40
  /-- V25 `Z`. -/
  z : RegVec 16 40
  /-- V26 `GCP`. -/
  gcp : RegVec 32 1
  /-- V27 `GP`. -/
  gp : RegVec 16 1
  /-- V28 `GC`. -/
  gc : RegVec 32 1
  /-- V29 `PRM`: the parameter vector (R88), unsigned. -/
  prm : RegVec 16 15
  /-- V30 `TLT`. -/
  tlt : RegVec 16 40
  /-- V31 `PFOUT`. -/
  pfout : RegVec 16 80
  /-- V32 `K1`. -/
  k1 : RegVec 16 1
deriving DecidableEq, Repr

/-- The register named `r`. -/
def Regs.get (rs : Regs) : (reg : Reg) → RegVec reg.width reg.len
  | .pcm => rs.pcm
  | .wsig => rs.wsig
  | .r => rs.r
  | .rscale => rs.rscale
  | .rl => rs.rl
  | .rc => rs.rc
  | .a => rs.a
  | .eres => rs.eres
  | .lsp => rs.lsp
  | .qlsf => rs.qlsf
  | .qlsp => rs.qlsp
  | .ilsp => rs.ilsp
  | .aq => rs.aq
  | .tol => rs.tol
  | .x => rs.x
  | .h => rs.h
  | .t0 => rs.t0
  | .t0f => rs.t0f
  | .t0min => rs.t0min
  | .t0max => rs.t0max
  | .acv => rs.acv
  | .y => rs.y
  | .gpu => rs.gpu
  | .x2 => rs.x2
  | .fcv => rs.fcv
  | .z => rs.z
  | .gcp => rs.gcp
  | .gp => rs.gp
  | .gc => rs.gc
  | .prm => rs.prm
  | .tlt => rs.tlt
  | .pfout => rs.pfout
  | .k1 => rs.k1

/-- The registers with the one named replaced. -/
def Regs.put (rs : Regs) : (reg : Reg) → RegVec reg.width reg.len → Regs
  | .pcm, v => { rs with pcm := v }
  | .wsig, v => { rs with wsig := v }
  | .r, v => { rs with r := v }
  | .rscale, v => { rs with rscale := v }
  | .rl, v => { rs with rl := v }
  | .rc, v => { rs with rc := v }
  | .a, v => { rs with a := v }
  | .eres, v => { rs with eres := v }
  | .lsp, v => { rs with lsp := v }
  | .qlsf, v => { rs with qlsf := v }
  | .qlsp, v => { rs with qlsp := v }
  | .ilsp, v => { rs with ilsp := v }
  | .aq, v => { rs with aq := v }
  | .tol, v => { rs with tol := v }
  | .x, v => { rs with x := v }
  | .h, v => { rs with h := v }
  | .t0, v => { rs with t0 := v }
  | .t0f, v => { rs with t0f := v }
  | .t0min, v => { rs with t0min := v }
  | .t0max, v => { rs with t0max := v }
  | .acv, v => { rs with acv := v }
  | .y, v => { rs with y := v }
  | .gpu, v => { rs with gpu := v }
  | .x2, v => { rs with x2 := v }
  | .fcv, v => { rs with fcv := v }
  | .z, v => { rs with z := v }
  | .gcp, v => { rs with gcp := v }
  | .gp, v => { rs with gp := v }
  | .gc, v => { rs with gc := v }
  | .prm, v => { rs with prm := v }
  | .tlt, v => { rs with tlt := v }
  | .pfout, v => { rs with pfout := v }
  | .k1, v => { rs with k1 := v }

/-- The registers whose elements, with their marks, are given by a function. -/
def Regs.tab (f : (reg : Reg) → Nat → Option (BitVec reg.width)) : Regs :=
  { pcm := Vec.tab (f .pcm)
    wsig := Vec.tab (f .wsig)
    r := Vec.tab (f .r)
    rscale := Vec.tab (f .rscale)
    rl := Vec.tab (f .rl)
    rc := Vec.tab (f .rc)
    a := Vec.tab (f .a)
    eres := Vec.tab (f .eres)
    lsp := Vec.tab (f .lsp)
    qlsf := Vec.tab (f .qlsf)
    qlsp := Vec.tab (f .qlsp)
    ilsp := Vec.tab (f .ilsp)
    aq := Vec.tab (f .aq)
    tol := Vec.tab (f .tol)
    x := Vec.tab (f .x)
    h := Vec.tab (f .h)
    t0 := Vec.tab (f .t0)
    t0f := Vec.tab (f .t0f)
    t0min := Vec.tab (f .t0min)
    t0max := Vec.tab (f .t0max)
    acv := Vec.tab (f .acv)
    y := Vec.tab (f .y)
    gpu := Vec.tab (f .gpu)
    x2 := Vec.tab (f .x2)
    fcv := Vec.tab (f .fcv)
    z := Vec.tab (f .z)
    gcp := Vec.tab (f .gcp)
    gp := Vec.tab (f .gp)
    gc := Vec.tab (f .gc)
    prm := Vec.tab (f .prm)
    tlt := Vec.tab (f .tlt)
    pfout := Vec.tab (f .pfout)
    k1 := Vec.tab (f .k1) }

/-- Every element of every register undefined (R25, R335). -/
def Regs.undef : Regs := Regs.tab fun _ _ => none

/-! ## Signal buffers (R60) -/

/-- The seven signal buffers of R60. -/
inductive Buf where
  | sig | exc | wsp | speech | pfres | ltf | stf
deriving DecidableEq, Repr

/-- Lowest index `lo` of a buffer (R60). -/
def Buf.lo : Buf → Int
  | .sig => 0
  | .exc => -154
  | .wsp => -143
  | .speech => -10
  | .pfres => -143
  | .ltf => -1
  | .stf => -10

/-- Highest index `hi` of a buffer (R60). -/
def Buf.hi : Buf → Int
  | .sig => 239
  | _ => 79

/-- The samples of every buffer, the one at index `lo` first. One int16 per index, every index of
every buffer present: equal memories are equal data. -/
structure Buffers where
  /-- `SIG`, 0..239. -/
  sig : Vec I16 240
  /-- `EXC`, -154..79. -/
  exc : Vec I16 234
  /-- `WSP`, -143..79. -/
  wsp : Vec I16 223
  /-- `SPEECH`, -10..79. -/
  speech : Vec I16 90
  /-- `PFRES`, -143..79. -/
  pfres : Vec I16 223
  /-- `LTF`, -1..79. -/
  ltf : Vec I16 81
  /-- `STF`, -10..79. -/
  stf : Vec I16 90
deriving DecidableEq, Repr

/-- The buffers whose samples are given by a function, from the one at index `lo` on. -/
def Buffers.tab (f : Buf → Nat → I16) : Buffers :=
  { sig := Vec.tab (f .sig)
    exc := Vec.tab (f .exc)
    wsp := Vec.tab (f .wsp)
    speech := Vec.tab (f .speech)
    pfres := Vec.tab (f .pfres)
    ltf := Vec.tab (f .ltf)
    stf := Vec.tab (f .stf) }

/-- Every sample of every buffer 0: the reset contents (R50). -/
def Buffers.zero : Buffers := Buffers.tab fun _ _ => 0

/-! ## Channel state (R28, R29) -/

/-- Encoder channel state (R28). A `4 × 10` array is laid out row after row. -/
structure EncState where
  /-- `E.LSP_PREV`. -/
  lspPrev : Vec I16 10
  /-- `E.QLSP_PREV`. -/
  qlspPrev : Vec I16 10
  /-- `E.LSFHIST[k][i]` at `10·k + i`. No in-scope operation uses it. DESIGN CHOICE (notes/assumptions/25.md):
  R28 and R163 do not say which frame row `k` is of; row 0 stands for the most recent, as R29 has `D.LSFHIST`. -/
  lsfHist : Vec I16 40
  /-- `E.GPEHIST`, most recent first. -/
  gpeHist : Vec I16 4
  /-- `E.GP_LAST`. -/
  gpLast : I16
  /-- `E.HPMEM` = (x1, x2, y1, y2). -/
  hpMem : Vec I32 4
deriving DecidableEq, Repr

/-- Decoder channel state (R29). -/
structure DecState where
  /-- `D.QLSP_PREV`. -/
  qlspPrev : Vec I16 10
  /-- `D.LSFHIST[k][i]` at `10·k + i`, most recent frame first. -/
  lsfHist : Vec I16 40
  /-- `D.LSF_LAST`. -/
  lsfLast : Vec I16 10
  /-- `D.L0_LAST`, uint1. -/
  l0Last : BitVec 1
  /-- `D.PITCH_LAST`. -/
  pitchLast : I16
  /-- `D.GP_RAW`. -/
  gpRaw : I16
  /-- `D.GP_BND`. -/
  gpBnd : I16
  /-- `D.GC`. -/
  gc : I32
  /-- `D.GPEHIST`, most recent first. -/
  gpeHist : Vec I16 4
  /-- `D.AGC_PREV`. -/
  agcPrev : I16
  /-- `D.HPMEM` = (x1, x2, y1, y2). -/
  hpMem : Vec I32 4
  /-- `D.SEED`, uint16. -/
  seed : BitVec 16
deriving DecidableEq, Repr

/-! ## Everything a command reads and writes -/

/-- The state of one channel instance that the block itself holds (R20). -/
structure Channel where
  /-- `FCTL` (R22). -/
  fctl : BitVec 16
  /-- `FSTAT` (R23). -/
  fstat : BitVec 16
  /-- The operand registers (R24). -/
  regs : Regs
  /-- Encoder channel state (R28). -/
  enc : EncState
  /-- Decoder channel state (R29). -/
  dec : DecState
  /-- The signal buffers (R60). -/
  bufs : Buffers
deriving DecidableEq, Repr

end Sys2Proof.Machine
end

