-- ==== Sys2Proof/Config.lean ====
section
/-! DEFINITION. The configuration record `CFG` of rule R8: everything a rule uses and the source
gives no value for. `CFG` is a parameter of the step, not state (R20), is never written (R72, R381),
and so may hold functions. A table is a function of its indices and is read only inside the shape
its docstring gives (R75). What R8 and R117 leave open without a default is in two constants with no
body, `Config.tables` and `Config.kernelOpen`. The defaults of R8 are in Machine/Defaults.lean. -/

namespace Sys2Proof

/-- Coefficients of a 2nd-order section (R8, R270), format `Q_HP`. -/
structure Biquad where
  b0 : I16
  b1 : I16
  b2 : I16
  a1 : I16
  a2 : I16
deriving DecidableEq, Repr, Inhabited

/-- The tables of rule R8 whose default is "none", and the format that comes with two of them. -/
structure Tables where
  /-- `T_WIN[0..239]`, format `Q_WIN`. -/
  tWin : Nat → I16
  /-- `T_LAGWIN[1..10]`, indexed by lag (R133), format `Q_WIN`. -/
  tLagWin : Nat → I16
  /-- `T_INTERP[0..30]` (R190), format `Q_WIN`. -/
  tInterp : Nat → I16
  /-- `T_L1[0..127][0..9]`, format `Q_LSF`. -/
  tL1 : Nat → Nat → I16
  /-- `T_L2[0..31][0..9]`, format `Q_LSF`. -/
  tL2 : Nat → Nat → I16
  /-- `T_L3[0..31][0..9]`, format `Q_LSF`. -/
  tL3 : Nat → Nat → I16
  /-- `T_MAPRED[0..1][0..3][0..9]`, Q15. -/
  tMaPred : Nat → Nat → Nat → I16
  /-- `T_GA[0..7][0..1]`: column 0 in `Q_GP`, column 1 in `Q_GAMMA`. -/
  tGa : Nat → Nat → I16
  /-- `T_GB[0..15][0..1]`: column 0 in `Q_GP`, column 1 in `Q_GAMMA`. -/
  tGb : Nat → Nat → I16
  /-- `T_GA_IMAP`, a permutation of 0..7; `T_GA_MAP` is its inverse. -/
  gaImap : Equiv.Perm (Fin 8)
  /-- `T_GB_IMAP`, a permutation of 0..15; `T_GB_MAP` is its inverse. -/
  gbImap : Equiv.Perm (Fin 16)
  /-- `T_HP_PRE`, the encoder's section. -/
  tHpPre : Biquad
  /-- `T_HP_POST`, the decoder's section. -/
  tHpPost : Biquad
  /-- `Q_HP`, the format of the two sections. -/
  qHp : Nat
deriving Inhabited

/-- What R117 leaves open of the default of five kernel functions, the correctly rounded ideal function:
the formats of argument and result (fraction bits, R11), and the value where the ideal function has
none. No in-scope operation uses these functions by name. -/
structure KernelOpen where
  log2In : Nat
  log2Out : Nat
  /-- `K_LOG2(v)` for `v ≤ 0`. -/
  log2Outside : Int → Int
  exp2In : Nat
  exp2Out : Nat
  sqrtIn : Nat
  sqrtOut : Nat
  /-- `K_SQRT(v)` for `v < 0`. -/
  sqrtOutside : Int → Int
  atanIn : Nat
  atanOut : Nat
  asinIn : Nat
  asinOut : Nat
  /-- `K_ASIN(v)` for `v` outside [-1, 1]. -/
  asinOutside : Int → Int
deriving Inhabited

/-- Four signed pulses (R210, R217): positions `m0..m3`, and for each whether its sign is +1. -/
structure Pulses where
  m0 : Nat
  m1 : Nat
  m2 : Nat
  m3 : Nat
  p0 : Bool
  p1 : Bool
  p2 : Bool
  p3 : Bool
deriving DecidableEq, Repr, Inhabited

/-- One pass of the fixed-codebook schedule (R214): phase A on tracks `u`, `v`, phase B on tracks
`w`, `zt`. -/
structure Pass where
  u : Nat
  v : Nat
  w : Nat
  zt : Nat
deriving DecidableEq, Repr, Inhabited

/-- The configuration record `CFG` (R8). -/
structure Config extends Tables where
  /-- `T_COSGRID[0..50]`, format `Q_LSP`. -/
  tCosGrid : Nat → I16
  /-- `T_GAINMA[0..3]`, Q15. -/
  tGainMa : Nat → I16
  lsfMin : Int
  lsfMax : Int
  lsfGap : Int
  pitWin1 : Int
  pitWin2Lo : Int
  pitWin2W : Int
  pitFracMaxLag : Int
  betaMin : Rat
  betaMax : Rat
  gainMeanDb : Rat
  gpeFloorDb : Rat
  gpeEraseDb : Rat
  gammaWNum : Rat
  gammaWDen : Rat
  wTilt : Rat
  gammaN : Rat
  gammaD : Rat
  gammaP : Rat
  pfLtThresh : Rat
  gammaT : Rat
  ncanA : Nat
  ncanB : Nat
  /-- `INIT_LSP[0..9]` (R50). -/
  initLsp : Nat → I16
  /-- `INIT_LSF[0..9]` (R50). -/
  initLsf : Nat → I16
  initGpe : I16
  initGpLast : I16
  initPitch : I16
  initAgc : I16
  initSeed : BitVec 16
  /-- Number of fraction bits of each quantity (R8, R11). No formula of a rule uses `Q_SIG`. -/
  qSig : Nat
  qWin : Nat
  qRc : Nat
  qLp : Nat
  qLsp : Nat
  qLsf : Nat
  qH : Nat
  qFcv : Nat
  qZ : Nat
  qGp : Nat
  qGc : Nat
  qGamma : Nat
  qGpe : Nat
  qAgc : Nat
  /-- `K_COS`: `Q_LSF` radians to `Q_LSP` (R117). -/
  kCos : I16 → I16
  /-- `K_ACOS`: `Q_LSP` to `Q_LSF` (R117). No in-scope operation uses it. -/
  kAcos : I16 → I16
  /-- `K_LOG2` (R117). The rules state the ideal logarithm (R118). -/
  kLog2 : Int → Int
  /-- `K_EXP2` (R117). The rules state the ideal power (R118). -/
  kExp2 : Int → Int
  /-- `K_SQRT` (R117). The rules state the ideal root (R118). -/
  kSqrt : Int → Int
  /-- `K_ATAN` (R117). Only units out of scope use it. -/
  kAtan : Int → Int
  /-- `K_ASIN` (R117). Only units out of scope use it. -/
  kAsin : Int → Int
  /-- `CFG.num` (R118): the realisation of a command where it differs from ideal-then-round, as what
  the channel holds after the command by what it held before; none where it does not differ. -/
  num : Instr → Machine.Channel → Option Machine.Channel
  /-- `CFG.prng` (R221). -/
  prng : BitVec 16 → BitVec 16
  /-- `CFG.parity` of P1 (R191). -/
  parity : Nat → Nat
  /-- `CFG.p1_enc(T, f)` (R186). -/
  p1Enc : Int → Int → Nat
  /-- `CFG.p1_dec(P1)` (R186). -/
  p1Dec : Nat → Int × Int
  /-- `CFG.p2_enc(T, f, tmin)` (R187). -/
  p2Enc : Int → Int → Int → Nat
  /-- `CFG.p2_dec(P2, tmin)` (R187). -/
  p2Dec : Nat → Int → Int × Int
  /-- `CFG.fcb_layout.encode` (R217): the codewords C and S. -/
  fcbEncode : Pulses → Nat × Nat
  /-- `CFG.fcb_layout.decode` (R217). -/
  fcbDecode : Nat → Nat → Pulses
  /-- `CFG.fcb_schedule` (R214). -/
  fcbSchedule : List Pass
  /-- `CFG.gain_presel(gp*, gc*, GCP)`: the first indices of the two windows (R244). -/
  gainPresel : Rat → Rat → Int → Nat × Nat
  /-- `CFG.lsf_dec_rearrange` on the ten codeword values (R159). -/
  lsfDecRearrange : List Int → List Int
  acorrNormUp : Bool
  stabCeilLast : Bool
  agcPerSample : Bool
  pfLtClamp : Bool
  pitFracOrder : List Int

/-- The tables R8 gives no default for (U10): no value of any of them is in the spec, so nothing in
Lean can evaluate this constant, and whatever is proved holds for every choice of the tables. -/
opaque Config.tables : Tables

/-- What R117 leaves open of the kernel functions: no value of it is in the spec, so it has no body. -/
opaque Config.kernelOpen : KernelOpen

end Sys2Proof
end

