-- ==== Sys2Proof/Machine/Kernel.lean ====
section
/-! DEFINITION. The fixed-point kernel of rules R110 to R121: saturation, shifts and rounding,
normalization, and the correctly rounded transcendental functions that R117 and R118 make the
default. Every function is total and reads no state (R119); arguments and intermediate values are
exact integers and rationals (R10, R118). -/

namespace Sys2Proof.Machine

/-! ## Saturation (R111, R112) -/

/-- `sat16(x)` of R111, as an int16 word. Saturation is silent: no flag records it (R27). -/
def sat16 (x : Int) : I16 := BitVec.ofInt 16 (min 32767 (max (-32768) x))

/-- `sat32(x)` of R112, as an int32 word. -/
def sat32 (x : Int) : I32 := BitVec.ofInt 32 (min 2147483647 (max (-2147483648) x))

/-- Whether an exact value fits an int32 register (R112): where it does not and the rule neither
saturates nor rescales, the command is refused. -/
def fits32 (x : Int) : Bool := decide (-2147483648 ≤ x ∧ x ≤ 2147483647)

/-- `add16` of R111. -/
def add16 (a b : I16) : I16 := sat16 (a.toInt + b.toInt)
/-- `sub16` of R111. -/
def sub16 (a b : I16) : I16 := sat16 (a.toInt - b.toInt)
/-- `neg16` of R111. -/
def neg16 (a : I16) : I16 := sat16 (-a.toInt)
/-- `abs16` of R111. -/
def abs16 (a : I16) : I16 := sat16 |a.toInt|

/-! ## Rounding, formats and shifts (R11, R113) -/

/-- `rnd(y) = floor(y + 1/2)`: to nearest, ties toward plus infinity (R113). -/
def rnd (y : Rat) : Int := (y + 1 / 2).floor

/-- `val(v, n) = v / 2^n` (R11). -/
def val (v : Int) (n : Nat) : Rat := (v : Rat) / 2 ^ n

/-- `q(x, n) = rnd(x · 2^n)` (R11). -/
def q (x : Rat) (n : Nat) : Int := rnd (x * 2 ^ n)

/-- `shr(x, n) = floor(x / 2^n)` (R113). -/
def shr (x : Int) (n : Nat) : Int := x / 2 ^ n

/-- `shr_r(x, n)` of R113, which is `rnd(x / 2^n)`: every `rnd(acc / 2^Q)` of the rules. -/
def shrR (x : Int) (n : Nat) : Int := if n = 0 then x else (x + 2 ^ (n - 1)) / 2 ^ n

/-- `shl(x, n) = x · 2^n`, exact (R113). -/
def shl (x : Int) (n : Nat) : Int := x * 2 ^ n

/-! ## Multiplication and accumulation (R114) -/

/-- `mul16(a, b)`: the exact product of two int16 (R114). -/
def mul16 (a b : I16) : Int := a.toInt * b.toInt

/-- `mac64(acc, a, b)`: exact accumulation (R114). -/
def mac64 (acc : Int) (a b : I16) : Int := acc + a.toInt * b.toInt

/-! ## Normalization (R115): no rule applies these outside their stated domain. -/

/-- `clz32(x)` for `0 < x < 2^31`. -/
def clz32 (x : Nat) : Nat := 31 - Nat.log2 x

/-- `norm32(x)` for `0 < x < 2^31`. -/
def norm32 (x : Nat) : Nat := clz32 x - 1

/-- `norm64to31(x)`: the least `s` with `floor(x / 2^s) < 2^31`. -/
def norm64to31 (x : Nat) : Nat := if x < 2 ^ 31 then 0 else Nat.log2 x - 30

/-! ## Division (R116) -/

/-- A denominator floored to 1 where it is zero (R116). -/
def floorDen (d : Rat) : Rat := if d = 0 then 1 else d

/-! ## Clamping -/

/-- `clamp(x, lo, hi)` of R222 and R246. -/
def clamp (x lo hi : Int) : Int := min hi (max lo x)

/-! ## First-found-wins searches (R15, R121) -/

/-- The element kept by "first strictly greater wins" when `best` is kept so far (R121). -/
def keepMax {α β : Type} [LT β] [DecidableLT β] (score : α → β) (best : α) : List α → α
  | [] => best
  | x :: rest => if score best < score x then keepMax score x rest else keepMax score best rest

/-- Maximisation over a list of candidates in visiting order, starting from minus infinity: the
first candidate is always taken (R121). `d` stands only for an empty list. -/
def argMax {α β : Type} [LT β] [DecidableLT β] (score : α → β) (d : α) : List α → α
  | [] => d
  | x :: rest => keepMax score x rest

/-- Minimisation, "first strictly smaller wins" (R121). -/
def argMin {α β : Type} [LT β] [DecidableLT β] [Neg β] (score : α → β) (d : α) (l : List α) : α :=
  argMax (fun x => -score x) d l

/-! ## Correctly rounded functions (R117, R118)

A rounded real value is decided exactly: `rnd(y)` is the greatest integer `k` with `k - 1/2 ≤ y`,
and that test needs no value of `y` itself. -/

/-- The greatest `k` of `lo, …, lo + 2^n - 1` with `p k`, for a `p` that holds at `lo` and is
downward closed there. -/
def greatest (p : Int → Bool) : Int → Nat → Int
  | lo, 0 => lo
  | lo, n + 1 => if p (lo + 2 ^ n) then greatest p (lo + 2 ^ n) n else greatest p lo n

/-- `sat16(rnd(y))` from the test `le k`, "`k - 1/2 ≤ y`". -/
def sat16Rnd (le : Int → Bool) : I16 := BitVec.ofInt 16 (greatest le (-32768) 16)

/-- The test `k - 1/2 ≤ a + b·√r` for rationals `b ≥ 0`, `r ≥ 0`: no square root is computed. -/
def leAddSqrt (a b r : Rat) (k : Int) : Bool :=
  let d : Rat := (k : Rat) - 1 / 2 - a
  decide (d ≤ 0) || decide (d * d ≤ b * b * r)

/-- The test `k - 1/2 ≤ 2^g · 20 · log10(m / 2^f)` for an integer `m > 0`, in exact integers: both
sides are multiplied by two and raised as powers of ten. -/
def leDb (m f g : Nat) (k : Int) : Bool :=
  let e := 40 * 2 ^ g
  if 1 ≤ k then decide (10 ^ (2 * k - 1).toNat * 2 ^ (f * e) ≤ m ^ e)
  else decide (2 ^ (f * e) ≤ m ^ e * 10 ^ (1 - 2 * k).toNat)

/-- `sat16(q(20·log10(m / 2^f), g))`: a correction factor in decibels (R245). -/
def dbOf (m f g : Nat) : I16 := sat16Rnd (leDb m f g)

/-- The first `n` terms of the cosine series at `x`. -/
def cosSeries (x : Rat) (n : Nat) : Rat :=
  sumN (fun j => (-1) ^ j * x ^ (2 * j) / ((Nat.factorial (2 * j) : Nat) : Rat)) n

/-- Terms kept of the cosine series: on `|x| ≤ 4` the remainder is below `2^-79`. -/
def cosTerms : Nat := 20

/-- `K_COS(w) = sat16(q(cos(val(w, Q_LSF)), Q_LSP))` (R117), defined for every int16. -/
def kCosDefault (qLsf qLsp : Nat) (w : I16) : I16 :=
  sat16 (q (cosSeries (val w.toInt qLsf) cosTerms) qLsp)

/-- `K_ACOS(c) = q(arccos(val(c, 15)), 13)` (R117) in the default formats: the greatest `k` with
`cos((k - 1/2) / 2^13) ≥ c / 2^15`; `25736 = rnd(π · 2^13)` is the value at `c = -2^15`. -/
def kAcosDefault (c : I16) : I16 :=
  sat16 (greatest
    (fun k => decide (k ≤ 25736) && decide (val c.toInt 15 ≤ cosSeries (val (2 * k - 1) 14) cosTerms))
    0 15)

/-- The first `n` terms of the sine series at `x`. -/
def sinSeries (x : Rat) (n : Nat) : Rat :=
  sumN (fun j => (-1) ^ j * x ^ (2 * j + 1) / ((Nat.factorial (2 * j + 1) : Nat) : Rat)) n

/-! The five functions of R117 that no operation uses by name, from `f` to `g` fraction bits: each the
rounded ideal function, decided as above. `outside` is the value where the ideal function has none. -/

/-- The test `k - 1/2 ≤ 2^g · log2(m / 2^f)` for `m > 0`: both sides doubled and raised as powers of two. -/
def leLog2 (m f g : Nat) (k : Int) : Bool :=
  let e := 2 * k - 1 + f * 2 ^ (g + 1)
  decide (e ≤ 0) || decide (2 ^ e.toNat ≤ m ^ 2 ^ (g + 1))

/-- `K_LOG2(v) = q(log2(val(v, f)), g)`. -/
def kLog2Default (f g : Nat) (outside : Int → Int) (v : Int) : Int :=
  if v ≤ 0 then outside v
  else greatest (leLog2 v.toNat f g) (((Nat.log2 v.toNat : Int) - f) * 2 ^ g) (g + 1)

/-- The test `k - 1/2 ≤ 2^(v / 2^f + g)`: both sides doubled and raised to the power `2^f`. -/
def leExp2 (v : Int) (f g : Nat) (k : Int) : Bool :=
  let e := v + (g + 1) * 2 ^ f
  decide (k ≤ 0) || decide ((2 * k - 1).toNat ^ 2 ^ f * 2 ^ (-e).toNat ≤ 2 ^ e.toNat)

/-- `K_EXP2(v) = q(2^val(v, f), g)`. -/
def kExp2Default (f g : Nat) (v : Int) : Int := greatest (leExp2 v f g) 0 (v / 2 ^ f + g + 2).toNat

/-- `K_SQRT(v) = q(√val(v, f), g)`: the test `k - 1/2 ≤ √y` is `(2k - 1)² ≤ 4·y` for `k ≥ 1`. -/
def kSqrtDefault (f g : Nat) (outside : Int → Int) (v : Int) : Int :=
  if v < 0 then outside v
  else greatest (fun k => decide (k ≤ 0) || decide ((2 * k - 1) * (2 * k - 1) * 2 ^ f ≤ 4 * v * 4 ^ g))
    0 (Nat.log2 v.toNat + g + 2)

/-- The sign test `0 ≤ y` of a real `y` approximated within `err n` by `approx n`, from `n` terms on: the
terms are doubled, at most `fuel` times, until the approximation is farther from 0 than its error. -/
def nonneg (approx err : Nat → Rat) : Nat → Nat → Bool
  | 0, n => decide (0 ≤ approx n)
  | fuel + 1, n => if err n < |approx n| then decide (0 ≤ approx n) else nonneg approx err fuel (2 * n)

/-- The test `0 ≤ a·cos x + b·sin x + d`: `n` terms of each series, whose remainders are below the first
term left out. -/
def trigNonneg (fuel : Nat) (a b d x : Rat) : Bool :=
  nonneg (fun n => a * cosSeries x n + b * sinSeries x n + d)
    (fun n => |a| * |x| ^ (2 * n) / ((Nat.factorial (2 * n) : Nat) : Rat)
      + |b| * |x| ^ (2 * n + 1) / ((Nat.factorial (2 * n + 1) : Nat) : Rat)) fuel 8

/-- `rnd(2^g · θ)` for an angle `θ` of `[-π/2, π/2]`: the greatest `k` whose angle `x = (k - 1/2) / 2^g` is at
most `θ`, where `le x` is that test for an `x` inside `(-π/2, π/2)`. An `x` from 2 up is above every `θ`, one
from -2 down is below; between, the sign of `cos x` says whether `x` is inside. -/
def rndAngle (fuel : Nat) (le : Rat → Bool) (g : Nat) : Int :=
  greatest (fun k =>
    let x := val (2 * k - 1) (g + 1)
    if 2 ≤ x then false
    else if x ≤ -2 then true
    else if trigNonneg fuel 1 0 0 x then le x else decide (x < 0)) (-2 ^ (g + 1)) (g + 3)

/-- How often the terms of a sign test may double for formats `f`, `g` and an argument `v`: the last test
would have `2^(f + g + 16)` terms and more, and nearly every test ends within the first few. -/
def angleFuel (f g : Nat) (v : Int) : Nat := f + g + Nat.log2 v.natAbs + 16

/-- `K_ATAN(v) = q(arctan(val(v, f)), g)`: `x ≤ arctan t` is `sin x ≤ t·cos x`. -/
def kAtanDefault (f g : Nat) (v : Int) : Int :=
  rndAngle (angleFuel f g v) (trigNonneg (angleFuel f g v) (val v f) (-1) 0) g

/-- `K_ASIN(v) = q(arcsin(val(v, f)), g)`: `x ≤ arcsin t` is `sin x ≤ t`. -/
def kAsinDefault (f g : Nat) (outside : Int → Int) (v : Int) : Int :=
  if 1 < |val v f| then outside v
  else rndAngle (angleFuel f g v) (trigNonneg (angleFuel f g v) 0 (-1) (val v f)) g

/-- `ln 10` to 60 decimal places. -/
def ln10 : Rat := 2302585092994045684017991454684364207601101488628772976033328 / 10 ^ 60

/-- The first `n` terms of the exponential series at `x`. -/
def expSeries (x : Rat) (n : Nat) : Rat :=
  sumN (fun j => x ^ j / ((Nat.factorial j : Nat) : Rat)) n

/-- `10^t` for a rational `t`: the integer part exactly, the rest by 60 terms of the exponential
series (relative error below `2^-150`; exact where `t` is an integer). -/
def pow10 (t : Rat) : Rat :=
  let n := t.floor
  let whole : Rat := if 0 ≤ n then 10 ^ n.toNat else 1 / 10 ^ (-n).toNat
  whole * expSeries ((t - n) * ln10) 60

/-- `min(2^31 - 1, max(1, rnd(√y2)))` for a rational `y2 ≥ 0`: the test `k - 1/2 ≤ √y2` is
`(2k - 1)² ≤ 4·y2` for `k ≥ 1`. -/
def rndSqrtPos31 (y2 : Rat) : Int :=
  min 2147483647 (greatest (fun k => decide (((2 * k - 1) * (2 * k - 1) : Int) ≤ 4 * y2)) 1 31)

end Sys2Proof.Machine
end

