-- ==== Sys2Proof/Machine/Defaults.lean ====
section
/-! DEFINITION. The defaults rule R8 gives the fields of `CFG`, and the configuration the machine
runs with: these defaults over `Config.tables` and `Config.kernelOpen`. Operations take the configuration as an argument, so
that they can also be read, tested and reasoned about under any other. -/

namespace Sys2Proof.Machine

/-- The 51 values of `T_COSGRID` (R8, 95_test_vectors.md section 2.5): `sat16(q(cos(π·j/50), 15))`. -/
def cosGridDefault : List Int :=
  [32767, 32703, 32510, 32188, 31739, 31164, 30467, 29649, 28715, 27667, 26510, 25248, 23887,
   22431, 20887, 19261, 17558, 15786, 13952, 12063, 10126, 8149, 6140, 4107, 2058, 0] ++
  [-2058, -4107, -6140, -8149, -10126, -12063, -13952, -15786, -17558, -19261, -20887, -22431,
   -23887, -25248, -26510, -27667, -28715, -29649, -30467, -31164, -31739, -32188, -32510, -32703,
   -32768]

/-- A table of int16 written as a list of integers. -/
def tableOf (vals : List Int) (i : Nat) : I16 := BitVec.ofInt 16 (vals.getD i 0)

/-- `INIT_LSP` (R50), Q15. -/
def initLspDefault : List Int :=
  [30000, 26000, 21000, 15000, 8000, 0, -8000, -15000, -21000, -26000]

/-- `INIT_LSF` (R50), Q13. -/
def initLsfDefault : List Int :=
  [2339, 4679, 7018, 9358, 11698, 14037, 16377, 18717, 21056, 23396]

/-- `CFG.prng` (R221): `(seed·31821 + 13849) mod 2^16`. -/
def prngDefault (seed : BitVec 16) : BitVec 16 := seed * 31821 + 13849

/-- `CFG.parity` (R191): odd parity over the six most significant bits of P1. -/
def parityDefault (p1 : Nat) : Nat :=
  (1 + p1 / 4 % 2 + p1 / 8 % 2 + p1 / 16 % 2 + p1 / 32 % 2 + p1 / 64 % 2 + p1 / 128 % 2) % 2

/-- `p1_enc` (R186), for `20 ≤ T ≤ 143` and `f ∈ {-1, 0, 1}`, `f = 0` when `T > 84`. -/
def p1EncDefault (lag f : Int) : Nat :=
  if lag ≤ 84 then ((lag - 19) * 3 + f - 1).toNat else (lag + 112).toNat

/-- `p1_dec` (R186), total on 0..255. -/
def p1DecDefault (p1 : Nat) : Int × Int :=
  if p1 < 197 then
    let lag : Int := (((p1 + 2) / 3 + 19 : Nat) : Int)
    (lag, (p1 : Int) - 3 * lag + 58)
  else ((p1 : Int) - 112, 0)

/-- `p2_enc` (R187), for `tmin ≤ T ≤ tmin + 9`. -/
def p2EncDefault (lag f tmin : Int) : Nat := ((lag - tmin) * 3 + f + 2).toNat

/-- `p2_dec` (R187), total on 0..31. -/
def p2DecDefault (p2 : Nat) (tmin : Int) : Int × Int :=
  let k : Int := (((p2 + 2) / 3 : Nat) : Int) - 1
  (k + tmin, (p2 : Int) - 2 - 3 * k)

/-- `b(s)` of R217: 1 for a positive pulse. -/
def signBit (p : Bool) : Nat := if p then 1 else 0

/-- `encode` of R217: the codewords C and S. -/
def fcbEncodeDefault (p : Pulses) : Nat × Nat :=
  let jx := if p.m3 % 5 = 3 then 0 else 1
  (p.m0 / 5 + 8 * (p.m1 / 5) + 64 * (p.m2 / 5) + 512 * (2 * (p.m3 / 5) + jx),
   signBit p.p0 + 2 * signBit p.p1 + 4 * signBit p.p2 + 8 * signBit p.p3)

/-- `decode` of R217, total on 0..8191 × 0..15. -/
def fcbDecodeDefault (c s : Nat) : Pulses :=
  { m0 := c % 8 * 5
    m1 := c / 8 % 8 * 5 + 1
    m2 := c / 64 % 8 * 5 + 2
    m3 := c / 1024 % 8 * 5 + 3 + c / 512 % 2
    p0 := s % 2 == 1
    p1 := s / 2 % 2 == 1
    p2 := s / 4 % 2 == 1
    p3 := s / 8 % 2 == 1 }

/-- The four passes of R214: `m3Base` 3, then 4. -/
def fcbScheduleDefault : List Pass :=
  [⟨2, 3, 0, 1⟩, ⟨3, 0, 1, 2⟩, ⟨2, 4, 0, 1⟩, ⟨4, 0, 1, 2⟩]

/-- The configuration of rule R8 with every default it gives, over tables `t` and over `k`, what R117
leaves open. -/
def defaultConfig (t : Tables) (k : KernelOpen) : Config :=
  { toTables := t
    tCosGrid := tableOf cosGridDefault
    tGainMa := tableOf [22282, 19005, 11141, 6226]
    lsfMin := 40
    lsfMax := 25681
    lsfGap := 321
    pitWin1 := 3
    pitWin2Lo := 5
    pitWin2W := 9
    pitFracMaxLag := 84
    betaMin := 1 / 5
    betaMax := 4 / 5
    gainMeanDb := 30
    gpeFloorDb := -14
    gpeEraseDb := 4
    gammaWNum := 1
    gammaWDen := 3 / 4
    wTilt := 7 / 10
    gammaN := 11 / 20
    gammaD := 7 / 10
    gammaP := 1 / 2
    pfLtThresh := 1 / 2
    gammaT := 4 / 5
    ncanA := 8
    ncanB := 16
    initLsp := tableOf initLspDefault
    initLsf := tableOf initLsfDefault
    initGpe := -14336
    initGpLast := 3277
    initPitch := 60
    initAgc := 4096
    initSeed := 21845
    qSig := 0
    qWin := 15
    qRc := 31
    qLp := 12
    qLsp := 15
    qLsf := 13
    qH := 12
    qFcv := 13
    qZ := 12
    qGp := 14
    qGc := 14
    qGamma := 12
    qGpe := 10
    qAgc := 12
    kCos := kCosDefault 13 15
    kAcos := kAcosDefault
    kLog2 := kLog2Default k.log2In k.log2Out k.log2Outside
    kExp2 := kExp2Default k.exp2In k.exp2Out
    kSqrt := kSqrtDefault k.sqrtIn k.sqrtOut k.sqrtOutside
    kAtan := kAtanDefault k.atanIn k.atanOut
    kAsin := kAsinDefault k.asinIn k.asinOut k.asinOutside
    num := fun _ _ => none
    prng := prngDefault
    parity := parityDefault
    p1Enc := p1EncDefault
    p1Dec := p1DecDefault
    p2Enc := p2EncDefault
    p2Dec := p2DecDefault
    fcbEncode := fcbEncodeDefault
    fcbDecode := fcbDecodeDefault
    fcbSchedule := fcbScheduleDefault
    gainPresel := fun _ _ _ => (0, 0)
    lsfDecRearrange := id
    acorrNormUp := false
    stabCeilLast := false
    agcPerSample := false
    pfLtClamp := true
    pitFracOrder := [0, -1, 1] }

/-- The configuration of the machine: R8's defaults over what it leaves open. -/
def cfg : Config := defaultConfig Config.tables Config.kernelOpen

end Sys2Proof.Machine
end

