-- ==== Sys2Proof/Machine/State.lean ====
section
/-! DEFINITION. The state of one channel instance (R20): what the channel holds (Machine/Channel.lean)
and the model's own fields, among them the host's port; why a command can be refused; and the state
after reset. State is plain data. -/

namespace Sys2Proof.Machine

/-- The block raises no exception and nothing stops it: "The complete list of synchronous exceptions
is empty; the complete list of asynchronous exceptions is empty" (R350). So no fault exists and none
can be raised. Safe. -/
inductive Fault where
deriving DecidableEq, Repr

/-- Why the model gives a command no meaning: the eleven reasons of R359, which change no state
(R13), and the model's own three. All are safe: a claim about a run that contains a refusal says
nothing about what follows it (R360). -/
inductive Refusal where
  /-- A command word that R83 does not decode. Raised by the step. -/
  | reservedEncoding
  /-- A command other than `CH.INIT` to a channel that does not exist. Raised by those commands. -/
  | channelClosed
  /-- `CH.INIT` on a channel that exists. Raised by `CH.INIT`. -/
  | channelOpen
  /-- A command whose role set does not contain `FCTL.ROLE`. Raised by role-bound commands. -/
  | wrongRole
  /-- A frame-level command outside the bracket. Raised by every frame-level command. -/
  | notInFrame
  /-- `FRM.BEGIN` inside the bracket. Raised by `FRM.BEGIN`. -/
  | inFrame
  /-- Read of an operand register element no one has written in this frame. Raised by every command
  that reads operand registers. -/
  | undefinedOperand
  /-- A parameter, lag, fraction or window outside its range, or an erasure flag on an encoder
  channel. Raised by the commands R359 lists. -/
  | parameterRange
  /-- A buffer index outside its range. Raised by `PF.LT` with `PF_LT_CLAMP` false, and by `PIT.DEC`
  on a lag the excitation history does not reach. -/
  | bufferBounds
  /-- An exact value that does not fit the int32 register a rule stores it in (R112). Raised by
  `LP.LAG`; every other rule that stores an int32 saturates, or its value fits. -/
  | overflow32
  /-- A negative residual energy in the Levinson recursion. Raised by `LP.LEV`. -/
  | levinsonEnergy
  /-- A host write that names elements the register does not have, or values not of its type: R21
  gives the host no such write. Raised by the port. -/
  | hostWriteMalformed
  /-- A snapshot restored into a closed channel or one of the other role: R21 gives the host no such
  restore. Raised by the port. -/
  | hostRestoreMismatch
  /-- An instruction the model gives no meaning yet. No arm raises it. -/
  | notModelled (mnemonic : String)
deriving DecidableEq, Repr

/-! ## Values after `CH.INIT` -/

/-- Encoder channel state after `CH.INIT` (R50). -/
def EncState.init (c : Config) : EncState :=
  { lspPrev := Vec.tab c.initLsp
    qlspPrev := Vec.tab c.initLsp
    lsfHist := Vec.tab fun k => c.initLsf (k % 10)
    gpeHist := Vec.tab fun _ => c.initGpe
    gpLast := c.initGpLast
    hpMem := Vec.tab fun _ => 0 }

/-- Decoder channel state after `CH.INIT` (R50). -/
def DecState.init (c : Config) : DecState :=
  { qlspPrev := Vec.tab c.initLsp
    lsfHist := Vec.tab fun k => c.initLsf (k % 10)
    lsfLast := Vec.tab c.initLsf
    l0Last := 0
    pitchLast := c.initPitch
    gpRaw := 0
    gpBnd := c.initGpLast
    gc := 0
    gpeHist := Vec.tab fun _ => c.initGpe
    agcPrev := c.initAgc
    hpMem := Vec.tab fun _ => 0
    seed := c.initSeed }

/-! ## The host's port -/

/-- A snapshot of a whole channel state with its buffers, of one role (R21, R384). -/
structure Snapshot where
  role : Role
  enc : EncState
  dec : DecState
  bufs : Buffers
deriving DecidableEq, Repr

/-- What the host does next on the channel (R6, R21): issue a command word, write elements of an
operand register, or restore a snapshot. Reading changes nothing (R66) and so needs no action. -/
inductive HostAct where
  | command (w : BitVec 16)
  | write (hw : HostWrite)
  | restore (snap : Snapshot)
deriving DecidableEq, Repr

/-! ## The state -/

/-- The state of one channel instance (R20), with the host actions not yet served. -/
structure State where
  /-- `FCTL` (R22). -/
  fctl : BitVec 16
  /-- `FSTAT` (R23). -/
  fstat : BitVec 16
  /-- The operand registers (R24). -/
  regs : Regs
  /-- Encoder channel state (R28). -/
  enc : EncState
  /-- Decoder channel state (R29). -/
  dec : DecState
  /-- The signal buffers (R60). -/
  bufs : Buffers
  /-- The model's own: the host's next actions, oldest first. The command sequence is a parameter of
  the step and no state of the block (R20); no command reads or writes this. -/
  port : List HostAct
  /-- The model's own: how many channels have been closed, which the free values after `CH.CLOSE`
  depend on. No command but `CH.CLOSE` reads or writes this. -/
  closes : Nat
deriving DecidableEq, Repr

/-- Every piece of state at its value of R50, with `FCTL` as given: what `CH.INIT` makes. -/
def State.fresh (c : Config) (fctl : BitVec 16) (port : List HostAct) (closes : Nat) : State :=
  { fctl := fctl
    fstat := 0
    regs := Regs.undef
    enc := EncState.init c
    dec := DecState.init c
    bufs := Buffers.zero
    port := port
    closes := closes }

/-- Power-on (R51): `FCTL.OPEN` = 0. Everything else is unspecified there and unreadable until
`CH.INIT`, the block's one reset (R380), gives it the values of R50; the model already holds those
values. Nothing waits at the port. -/
def State.reset : State := State.fresh cfg 0 [] 0

/-! ## What a closed channel holds -/

/-- One value for every piece of state that `CH.CLOSE` leaves unspecified (R51, R336). -/
structure Unspecified where
  fctl : BitVec 16
  fstat : BitVec 16
  regs : (reg : Reg) → Nat → Option (BitVec reg.width)
  eLspPrev : Nat → I16
  eQlspPrev : Nat → I16
  eLsfHist : Nat → I16
  eGpeHist : Nat → I16
  eGpLast : I16
  eHpMem : Nat → I32
  dQlspPrev : Nat → I16
  dLsfHist : Nat → I16
  dLsfLast : Nat → I16
  dL0Last : BitVec 1
  dPitchLast : I16
  dGpRaw : I16
  dGpBnd : I16
  dGc : I32
  dGpeHist : Nat → I16
  dAgcPrev : I16
  dHpMem : Nat → I32
  dSeed : BitVec 16
  bufs : Buf → Nat → I16
deriving Inhabited

end Sys2Proof.Machine

namespace Sys2Proof

/-- The free values of the `n`-th closed channel: no body, so no proof can see any of them (U9). -/
opaque Config.unspecified : Nat → Machine.Unspecified

end Sys2Proof
end

