-- ==== Sys2Proof/Machine/Flags.lean ====
section
/-! DEFINITION. The flags: the fields of `FCTL` (R22) and `FSTAT` (R23). There are no others, and no
arithmetic sets one (R27). -/

namespace Sys2Proof.Machine

/-- Word `w` with bit `k` written `b`. -/
def setBit (w : BitVec 16) (k : Nat) (b : Bool) : BitVec 16 :=
  if b then w ||| 1#16 <<< k else w &&& ~~~(1#16 <<< k)

/-! ## `FCTL` (R22) -/

/-- `FCTL.OPEN`, bit 0. -/
def State.isOpen (s : State) : Bool := s.fctl.getLsbD 0

/-- `FCTL.ROLE`, bit 1. -/
def State.role (s : State) : Role := if s.fctl.getLsbD 1 then .dec else .enc

/-- `FCTL.BFI`, bit 2. -/
def State.bfi (s : State) : Bool := s.fctl.getLsbD 2

/-- `FCTL.PE`, bit 3. -/
def State.pe (s : State) : Bool := s.fctl.getLsbD 3

/-- `FCTL.INFRAME`, bit 4. -/
def State.inFrame (s : State) : Bool := s.fctl.getLsbD 4

/-- `FCTL` after `CH.INIT role=r` (R335): `OPEN`, `ROLE`, every other bit 0. -/
def fctlOpened : Role → BitVec 16
  | .enc => 0x0001
  | .dec => 0x0003

/-- `FCTL` with `BFI`, `PE` latched and `INFRAME` set (R337). -/
def fctlBegun (w : BitVec 16) (bfi pe : Bool) : BitVec 16 :=
  setBit (setBit (setBit w 2 bfi) 3 pe) 4 true

/-- `FCTL` with `INFRAME` cleared (R339). -/
def fctlEnded (w : BitVec 16) : BitVec 16 := setBit w 4 false

/-- `FCTL` with `OPEN` and the reserved bits 0 (R22, R336). -/
def fctlClosed (w : BitVec 16) : BitVec 16 := w &&& 0x001E

/-! ## `FSTAT` (R23) -/

/-- The five flags of R23. -/
inductive StatFlag where
  | rootFail | ltOff | tiltOff | conceal | r0Floor
deriving DecidableEq, Repr

/-- The bit of a flag (R23). -/
def StatFlag.bit : StatFlag → Nat
  | .rootFail => 0
  | .ltOff => 1
  | .tiltOff => 2
  | .conceal => 3
  | .r0Floor => 4

/-- The value of a flag. -/
def State.flag (s : State) (f : StatFlag) : Bool := s.fstat.getLsbD f.bit

/-- `FSTAT.f <- b`, for the flags that are overwritten each call (`LTOFF`, `TILTOFF`). -/
def State.writeFlag (s : State) (f : StatFlag) (b : Bool) : State :=
  { s with fstat := setBit s.fstat f.bit b }

/-- `FSTAT.f <- 1` where the condition holds, else unchanged: the flags that are set only
(`ROOTFAIL`, `CONCEAL`, `R0FLOOR`). -/
def State.raiseFlag (s : State) (f : StatFlag) (cond : Bool) : State :=
  if cond then s.writeFlag f true else s

end Sys2Proof.Machine
end

