-- ==== Sys2Proof/Machine/Operands.lean ====
section
/-! DEFINITION. Reading and writing operand registers (R12, R24, R25). A command names its operands;
none is coded in the word (R81). -/

namespace Sys2Proof.Machine

/-- `V[i]` of a signed register (R10): the value an element holds. An undefined element has no value;
the 0 returned for it is read by no command that is admitted (R25, R358 check 5). -/
def Regs.int (rs : Regs) (reg : Reg) (i : Nat) : Int :=
  match (rs.get reg).elD i none with
  | some w => w.toInt
  | none => 0

/-- `V[i]` of `PRM`, whose elements are unsigned (R24). -/
def Regs.nat (rs : Regs) (reg : Reg) (i : Nat) : Nat :=
  match (rs.get reg).elD i none with
  | some w => w.toNat
  | none => 0

/-- Whether element `i` is defined (R14, R25). -/
def Regs.definedAt (rs : Regs) (reg : Reg) (i : Nat) : Bool := ((rs.get reg).elD i none).isSome

/-- Elements `first .. first + count - 1` of an operand register: what a command reads of it. -/
structure Need where
  reg : Reg
  first : Nat
  count : Nat
deriving DecidableEq, Repr

/-- All of a register. -/
def Need.all (reg : Reg) : Need := ⟨reg, 0, reg.len⟩

/-- Every element of the need is defined. -/
def Regs.meets (rs : Regs) (need : Need) : Bool :=
  (List.range' need.first need.count).all fun i => rs.definedAt need.reg i

/-- Every element of every need is defined (R358 check 5). -/
def Regs.meetsAll (rs : Regs) (needs : List Need) : Bool := needs.all rs.meets

/-- `V <- v`: the whole register written and defined (R25). -/
def Regs.setAll (rs : Regs) (reg : Reg) (f : Nat → BitVec reg.width) : Regs :=
  rs.put reg (Vec.tab fun i => some (f i))

/-- `V[first + k] <- f k` for `k` in `0..count-1`; the other elements keep value and mark. -/
def Regs.setFrom (rs : Regs) (reg : Reg) (first count : Nat) (f : Nat → BitVec reg.width) : Regs :=
  rs.put reg ((rs.get reg).patch first count (fun k => some (f k)) none)

/-- The same writes on a state. -/
def State.setAll (s : State) (reg : Reg) (f : Nat → BitVec reg.width) : State :=
  { s with regs := s.regs.setAll reg f }

/-- The same writes on a state. -/
def State.setFrom (s : State) (reg : Reg) (first count : Nat) (f : Nat → BitVec reg.width) : State :=
  { s with regs := s.regs.setFrom reg first count f }

/-- The index of the first element of `AQ[sf]`. -/
def aqBase (sf : Subframe) : Nat := 10 * sf.idx

/-- The operand `AQ[sf]`. -/
def needAq (sf : Subframe) : Need := ⟨.aq, aqBase sf, 10⟩

/-- `AQ[sf][i]`. -/
def Regs.aqAt (rs : Regs) (sf : Subframe) (i : Nat) : Int := rs.int .aq (aqBase sf + i)

/-- The operands `PRM[i]`, `i` in a list. -/
def needPrm (first count : Nat) : Need := ⟨.prm, first, count⟩

/-- The declared width of `PRM[i]` (R88). -/
def prmWidth (i : Nat) : Nat := [1, 7, 5, 5, 8, 1, 13, 4, 3, 4, 5, 13, 4, 3, 4].getD i 0

/-- `PRM[i]` is within its declared width (R91). -/
def Regs.prmInRange (rs : Regs) (i : Nat) : Bool := decide (rs.nat .prm i < 2 ^ prmWidth i)

/-- `T0` is inside the range `PIT.DEC` can produce (R188): what `FCB.SEARCH`, `FCB.DEC`, `PF.LT` and
`PIT.INTERP` require of it. -/
def Regs.lagInRange (rs : Regs) : Bool := decide (19 ≤ rs.int .t0 0 ∧ rs.int .t0 0 ≤ 144)

end Sys2Proof.Machine
end

