-- ==== Sys2Proof/Machine/Ops.lean ====
section
/-! DEFINITION. The operations every meaning is written with: the access primitives over signal
buffers (R61, R62), the common admission checks (R358) and the state a rule calls `S.name` (R12).
There is no taking of an exception and no return from one: the block has neither (R350, R354, R355). -/

namespace Sys2Proof.Machine

/-- What a command does: a next state, or a refusal that changes nothing (R13, R344). -/
abbrev Result := Host.Outcome State Fault Refusal

/-! ## Signal buffers -/

/-- The samples of a buffer, the one at index `lo` first. -/
def Buffers.samples (bs : Buffers) : Buf → List I16
  | .sig => bs.sig.toList
  | .exc => bs.exc.toList
  | .wsp => bs.wsp.toList
  | .speech => bs.speech.toList
  | .pfres => bs.pfres.toList
  | .ltf => bs.ltf.toList
  | .stf => bs.stf.toList

/-- The canonical form of the buffers: each holds one sample per index of R60, no more and no fewer. It is
so by construction; equal buffers are equal data. -/
abbrev Buffers.wf (bs : Buffers) : Prop := ∀ b, ((bs.samples b).length : Int) = b.hi - b.lo + 1

/-- `lo(B) <= i <= hi(B)` (R61). -/
def Buf.inBounds (b : Buf) (i : Int) : Bool := decide (b.lo ≤ i ∧ i ≤ b.hi)

/-- `MemRead(B, i)` (R61): no sample outside the bounds. -/
def Buffers.read (bs : Buffers) (b : Buf) (i : Int) : Option I16 :=
  if b.inBounds i then (bs.samples b)[(i - b.lo).toNat]? else none

/-- The short form `B{i}` (R12) as a word. No command that is admitted reads outside the bounds; the
0 stands only for such an index (R61, R358 check 7). -/
def Buffers.word (bs : Buffers) (b : Buf) (i : Int) : I16 := (bs.read b i).getD 0

/-- The short form `B{i}` (R12) as a signed integer. -/
def Buffers.at (bs : Buffers) (b : Buf) (i : Int) : Int := (bs.word b i).toInt

/-- `MemWrite(B, i, v)` (R61); nothing where `i` is outside the bounds. -/
def Buffers.write (bs : Buffers) (b : Buf) (i : Int) (v : I16) : Buffers :=
  if b.inBounds i then
    match b with
    | .sig => { bs with sig := bs.sig.set (i - Buf.lo .sig).toNat v }
    | .exc => { bs with exc := bs.exc.set (i - Buf.lo .exc).toNat v }
    | .wsp => { bs with wsp := bs.wsp.set (i - Buf.lo .wsp).toNat v }
    | .speech => { bs with speech := bs.speech.set (i - Buf.lo .speech).toNat v }
    | .pfres => { bs with pfres := bs.pfres.set (i - Buf.lo .pfres).toNat v }
    | .ltf => { bs with ltf := bs.ltf.set (i - Buf.lo .ltf).toNat v }
    | .stf => { bs with stf := bs.stf.set (i - Buf.lo .stf).toNat v }
  else bs

/-- `for k in 0..n-1: MemWrite(B, base + k, f k)` in ascending order, each value computed on the
buffers as the writes before it left them: the in/out contract of R62. -/
def Buffers.fill (b : Buf) (base : Int) (f : Buffers → Nat → I16) : Nat → Buffers → Buffers
  | 0, bs => bs
  | n + 1, bs =>
    let done := Buffers.fill b base f n bs
    done.write b (base + n) (f done n)

/-- The first index of subframe `sf` in a buffer (R60). -/
def sfBase (sf : Subframe) : Int := 40 * sf.idx

/-- A subframe of 40 samples written to buffer `b` in ascending order (R62, R271). -/
def State.fillSubframe (s : State) (b : Buf) (sf : Subframe) (f : Buffers → Nat → I16) : State :=
  { s with bufs := Buffers.fill b (sfBase sf) f 40 s.bufs }

/-- `B{i} <- B{i + 80}` for `i` from `lo(B)` to `-1`, ascending (R63, R339). -/
def Buffers.shiftFrame (bs : Buffers) (b : Buf) : Buffers :=
  Buffers.fill b b.lo (fun cur k => cur.word b (b.lo + k + 80)) (-b.lo).toNat bs

/-! ## State of the channel's role (R12) -/

/-- `S.QLSP_PREV[i]`. -/
def State.qlspPrev (s : State) (i : Nat) : Int :=
  match s.role with
  | .enc => (s.enc.qlspPrev.elD i 0).toInt
  | .dec => (s.dec.qlspPrev.elD i 0).toInt

/-- `S.QLSP_PREV <- f`. -/
def State.setQlspPrev (s : State) (f : Nat → I16) : State :=
  match s.role with
  | .enc => { s with enc := { s.enc with qlspPrev := Vec.tab f } }
  | .dec => { s with dec := { s.dec with qlspPrev := Vec.tab f } }

/-- `S.GPEHIST[k]`. -/
def State.gpeHist (s : State) (k : Nat) : Int :=
  match s.role with
  | .enc => (s.enc.gpeHist.elD k 0).toInt
  | .dec => (s.dec.gpeHist.elD k 0).toInt

/-- The history after `HistPush(u)` (R245): `u` becomes the most recent, the oldest is dropped. -/
def histPushed (hist : Vec I16 4) (u : I16) : Vec I16 4 :=
  Vec.tab fun k => if k = 0 then u else hist.elD (k - 1) 0

/-- The codeword history after a push (R159, R160): row 0 is `cw`, row `k` the old row `k-1`. -/
def lsfHistPushed (hist : Vec I16 40) (cw : Nat → I16) : Vec I16 40 :=
  Vec.tab fun k => if k < 10 then cw k else hist.elD (k - 10) 0

/-! ## `CFG.num` (R118) -/

/-- What the channel holds: the state without the model's own fields. -/
def State.channel (s : State) : Channel :=
  { fctl := s.fctl, fstat := s.fstat, regs := s.regs, enc := s.enc, dec := s.dec, bufs := s.bufs }

/-- The state a completed command leaves (R118): `ideal`, what its rule's ideal-then-round formulas give
from `s`, or what another realisation of `CFG.num` gives instead. No realisation writes `FCTL`. Under
the default there is none (notes/assumptions/7.md). -/
def realised (c : Config) (i : Instr) (s ideal : State) : State :=
  match c.num i s.channel with
  | none => ideal
  | some ch =>
    { ideal with fstat := ch.fstat, regs := ch.regs, enc := ch.enc, dec := ch.dec, bufs := ch.bufs }

/-! ## Admission (R358) -/

/-- The role set of a command (R82, column "role"). -/
inductive RoleSet where
  | e | d | ed
deriving DecidableEq, Repr

/-- The set contains the role. -/
def RoleSet.has : RoleSet → Role → Bool
  | .e, .enc => true
  | .d, .dec => true
  | .ed, _ => true
  | _, _ => false

/-- The common admission checks of a frame-level command, in the order of R358: the channel is open
(2), its role is in the command's role set (3), a frame is open (4), every operand element the command
reads is defined (5), and the values it reads are in the ranges its rule states (6). The first that
fails refuses the command; then `body`. -/
def checked (roles : RoleSet) (needs : List Need) (inRange : Bool) (s : State) (body : Result) : Result :=
  if s.isOpen = false then .refused .channelClosed
  else if roles.has s.role = false then .refused .wrongRole
  else if s.inFrame = false then .refused .notInFrame
  else if s.regs.meetsAll needs = false then .refused .undefinedOperand
  else if inRange = false then .refused .parameterRange
  else body

/-- The state passes checks 2 to 5 of R358 for a command of these roles and operands. -/
def State.ready (s : State) (roles : RoleSet) (needs : List Need) : Bool :=
  s.isOpen && roles.has s.role && s.inFrame && s.regs.meetsAll needs

/-- An operation-specific condition (R358 check 7). -/
def require (ok : Bool) (reason : Refusal) (body : Result) : Result :=
  if ok then body else .refused reason

end Sys2Proof.Machine
end

