-- ==== Sys2Proof/Machine/Control.lean ====
section
/-! DEFINITION. Channel lifecycle, frame bracket and excitation update (49_control.md): CH.INIT,
CH.CLOSE, FRM.BEGIN, EXC.MIX, UPD.FRM. -/

namespace Sys2Proof.Machine

/-- `CH.INIT role=r` (R335): the block's one reset (R380). Every piece of state takes its value of
R50; nothing else is accepted on a closed channel. -/
def execChInit (role : Role) (s : State) : Result :=
  if s.isOpen then .refused .channelOpen
  else .next (State.fresh cfg (fctlOpened role) s.port s.closes)

/-- The encoder channel state of a closed channel (R51). -/
def EncState.ofUnspecified (u : Unspecified) : EncState :=
  { lspPrev := Vec.tab u.eLspPrev
    qlspPrev := Vec.tab u.eQlspPrev
    lsfHist := Vec.tab u.eLsfHist
    gpeHist := Vec.tab u.eGpeHist
    gpLast := u.eGpLast
    hpMem := Vec.tab u.eHpMem }

/-- The decoder channel state of a closed channel (R51). -/
def DecState.ofUnspecified (u : Unspecified) : DecState :=
  { qlspPrev := Vec.tab u.dQlspPrev
    lsfHist := Vec.tab u.dLsfHist
    lsfLast := Vec.tab u.dLsfLast
    l0Last := u.dL0Last
    pitchLast := u.dPitchLast
    gpRaw := u.dGpRaw
    gpBnd := u.dGpBnd
    gc := u.dGc
    gpeHist := Vec.tab u.dGpeHist
    agcPrev := u.dAgcPrev
    hpMem := Vec.tab u.dHpMem
    seed := u.dSeed }

/-- The channel closed (R336): `FCTL.OPEN` is 0 and the reserved bits of the control registers still
read as 0 (R22, R23); everything else is a free value, new at every close. -/
def State.closed (s : State) : State :=
  let u := Config.unspecified s.closes
  { fctl := fctlClosed u.fctl
    fstat := u.fstat &&& 0x001F
    regs := Regs.tab u.regs
    enc := EncState.ofUnspecified u
    dec := DecState.ofUnspecified u
    bufs := Buffers.tab u.bufs
    port := s.port
    closes := s.closes + 1 }

/-- `CH.CLOSE` (R336), at any point of an open channel. -/
def execChClose (s : State) : Result :=
  if s.isOpen = false then .refused .channelClosed
  else .next s.closed

/-- The operand registers after `FRM.BEGIN` (R25, R337): every element undefined but the frame's
input, `PCM` of an encoder and `PRM` of a decoder. -/
def Regs.begun (rs : Regs) : Role → Regs
  | .enc => { Regs.undef with pcm := rs.pcm }
  | .dec => { Regs.undef with prm := rs.prm }

/-- `FRM.BEGIN bfi=a pe=b` (R337). -/
def execFrmBegin (bfi pe : Bool) (s : State) : Result :=
  if s.isOpen = false then .refused .channelClosed
  else if s.inFrame then .refused .inFrame
  else if s.role = .enc ∧ (bfi || pe) = true then .refused .parameterRange
  else .next { s with
    fctl := fctlBegun s.fctl bfi pe
    fstat := 0
    regs := s.regs.begun s.role }

/-- Sample `n` of the excitation (R338): the sum of the two scaled vectors, exact, rounded once. -/
def mixSample (c : Config) (rs : Regs) (n : Nat) : I16 :=
  sat16 (rnd (val (rs.int .gp 0 * rs.int .acv n) c.qGp
    + val (rs.int .gc 0 * rs.int .fcv n) (c.qGc + c.qFcv)))

/-- `E.GP_LAST <- GP` on an encoder channel (R338). -/
def State.recordGp (s : State) : State :=
  match s.role with
  | .enc => { s with enc := { s.enc with gpLast := sat16 (s.regs.int .gp 0) } }
  | .dec => s

/-- The effect of `EXC.MIX sf` (R338). -/
def excMix (c : Config) (sf : Subframe) (s : State) : State :=
  (s.fillSubframe .exc sf fun _ n => mixSample c s.regs n).recordGp

/-- What `EXC.MIX` reads (R338). -/
def excMixNeeds : List Need := [.all .gp, .all .gc, .all .acv, .all .fcv]

/-- `EXC.MIX sf` (R338). -/
def execExcMix (sf : Subframe) (s : State) : Result :=
  checked .ed excMixNeeds true s (.next (realised cfg (.excMix sf) s (excMix cfg sf s)))

/-- The buffers a role shifts at the end of a frame, in order (R339): all of the role's but `SIG`. -/
def shiftedBufs : Role → List Buf
  | .enc => [.exc, .wsp]
  | .dec => [.exc, .speech, .pfres, .ltf, .stf]

/-- The effect of `UPD.FRM` (R339). -/
def updFrm (s : State) : State :=
  { (s.setQlspPrev fun i => sat16 (s.regs.int .qlsp i)) with
    bufs := (shiftedBufs s.role).foldl Buffers.shiftFrame s.bufs
    fctl := fctlEnded s.fctl }

/-- `UPD.FRM` (R339). -/
def execUpdFrm (s : State) : Result := checked .ed [.all .qlsp] true s (.next (updFrm s))

end Sys2Proof.Machine
end

