-- ==== Sys2Proof/Machine/Filters.lean ====
section
/-! DEFINITION. The filters (46_filters.md): FLT.HP, FLT.SYN, FLT.RES, FLT.WGT, and the parts the
post-filter shares with them. -/

namespace Sys2Proof.Machine

/-! ## Shared parts (R265, R266, R271) -/

/-- `Bw(a, γ)[i]` of R266, `i` from 0: coefficient `a_(i+1)` times `γ^(i+1)`, rounded once. -/
def bw (a : Nat → Int) (gamma : Rat) (i : Nat) : Int := (sat16 (rnd ((a i : Rat) * gamma ^ (i + 1)))).toInt

/-- The residual form (R265): `u[k]·2^Q + Σ_i a_i·u[k-i]`, rounded and saturated (R271). -/
def firSample (qLp : Nat) (a : Nat → Int) (u : Int → Int) (k : Int) : I16 :=
  sat16 (shrR (u k * 2 ^ qLp + sumN (fun i => a i * u (k - 1 - i)) 10) qLp)

/-- The all-pole form (R265): `x·2^Q - Σ_i a_i·y[k-i]`, rounded and saturated (R271). -/
def iirSample (qLp : Nat) (a : Nat → Int) (x : Int) (y : Int → Int) (k : Int) : I16 :=
  sat16 (shrR (x * 2 ^ qLp - sumN (fun i => a i * y (k - 1 - i)) 10) qLp)

/-! ## FLT.SYN (R267) -/

/-- The effect of `FLT.SYN sf` (R267). -/
def fltSyn (c : Config) (sf : Subframe) (s : State) : State :=
  s.fillSubframe .speech sf fun bs n =>
    iirSample c.qLp (s.regs.aqAt sf) (bs.at .exc (sfBase sf + n)) (bs.at .speech) (sfBase sf + n)

/-- `FLT.SYN sf` (R267). -/
def execFltSyn (sf : Subframe) (s : State) : Result :=
  checked .d [needAq sf] true s (.next (realised cfg (.fltSyn sf) s (fltSyn cfg sf s)))

/-! ## FLT.RES (R268) -/

/-- The index in `SIG` of sample `n` of subframe `sf` of the frame being coded (R63). -/
def codedIndex (sf : Subframe) (n : Nat) : Int := 120 + sfBase sf + n

/-- The effect of `FLT.RES sf` (R268). -/
def fltRes (c : Config) (sf : Subframe) (s : State) : State :=
  s.fillSubframe .exc sf fun bs n => firSample c.qLp (s.regs.aqAt sf) (bs.at .sig) (codedIndex sf n)

/-- `FLT.RES sf` (R268). -/
def execFltRes (sf : Subframe) (s : State) : Result :=
  checked .e [needAq sf] true s (.next (realised cfg (.fltRes sf) s (fltRes cfg sf s)))

/-! ## FLT.WGT (R269) -/

/-- `a(i)` of R269: `a(0) = 2^Q_LP`. -/
def wgtCoef (c : Config) (rs : Regs) (sf : Subframe) (i : Nat) : Int :=
  if i = 0 then 2 ^ c.qLp else rs.aqAt sf (i - 1)

/-- `D[i]` of R269: the denominator with the tilt term, truncated to order 10. -/
def wgtDen (c : Config) (rs : Regs) (sf : Subframe) (i : Nat) : Int :=
  (sat16 (rnd ((wgtCoef c rs sf (i + 1) : Rat) * c.gammaWDen ^ (i + 1)
    - c.wTilt * (wgtCoef c rs sf i : Rat) * c.gammaWDen ^ i))).toInt

/-- The effect of `FLT.WGT sf` (R269). -/
def fltWgt (c : Config) (sf : Subframe) (s : State) : State :=
  let num := bw (s.regs.aqAt sf) c.gammaWNum
  let den := wgtDen c s.regs sf
  s.fillSubframe .wsp sf fun bs n =>
    iirSample c.qLp den (firSample c.qLp num (bs.at .sig) (codedIndex sf n)).toInt (bs.at .wsp)
      (sfBase sf + n)

/-- `FLT.WGT sf` (R269). -/
def execFltWgt (sf : Subframe) (s : State) : Result :=
  checked .e [needAq sf] true s (.next (realised cfg (.fltWgt sf) s (fltWgt cfg sf s)))

/-! ## FLT.HP (R270) -/

/-- A value `j` samples before input or output `n` of the frame: from the frame while there is one,
else from the two values remembered. -/
def delayed (now : Nat → Int) (m1 m2 : Int) (n j : Nat) : Int :=
  if j ≤ n then now (n - j) else if j = n + 1 then m1 else m2

/-- The 80 outputs of one 2nd-order section (R270), from its inputs and its memory. -/
def biquad (b : Biquad) (qHp : Nat) (mem : Nat → Int) (x : Nat → Int) : List I16 :=
  gen (fun y n =>
    let xn (j : Nat) : Int := delayed x (mem 0) (mem 1) n j
    let yn (j : Nat) : Int := delayed (fun k => (y.getD k 0).toInt) (mem 2) (mem 3) n j
    sat16 (shrR (b.b0.toInt * xn 0 + b.b1.toInt * xn 1 + b.b2.toInt * xn 2
      - b.a1.toInt * yn 1 - b.a2.toInt * yn 2) qHp)) 80

/-- `S.HPMEM` after the frame: (x1, x2, y1, y2) (R270). -/
def hpMemory (x : Nat → Int) (y : List I16) : Vec I32 4 :=
  Vec.tab fun k => BitVec.ofInt 32 (match k with
    | 0 => x 79
    | 1 => x 78
    | 2 => (y.getD 79 0).toInt
    | _ => (y.getD 78 0).toInt)

/-- The encoder form (R270): `SIG` rolled by one frame, the filtered `PCM` at its end. -/
def fltHpEnc (c : Config) (s : State) : State :=
  let x := s.regs.int .pcm
  let y := biquad c.tHpPre c.qHp (fun k => (s.enc.hpMem.elD k 0).toInt) x
  { s with
    bufs := Buffers.fill .sig 0
      (fun bs k => if k < 160 then bs.word .sig (k + 80) else y.getD (k - 160) 0) 240 s.bufs
    enc := { s.enc with hpMem := hpMemory x y } }

/-- The decoder form (R270): `PFOUT` filtered into `PCM`. -/
def fltHpDec (c : Config) (s : State) : State :=
  let x := s.regs.int .pfout
  let y := biquad c.tHpPost c.qHp (fun k => (s.dec.hpMem.elD k 0).toInt) x
  { s.setAll .pcm (fun n => y.getD n 0) with dec := { s.dec with hpMem := hpMemory x y } }

/-- The effect of `FLT.HP` (R270). -/
def fltHp (c : Config) (s : State) : State :=
  match s.role with
  | .enc => fltHpEnc c s
  | .dec => fltHpDec c s

/-- What `FLT.HP` reads (R270). -/
def fltHpNeeds : Role → List Need
  | .enc => [.all .pcm]
  | .dec => [.all .pfout]

/-- `FLT.HP` (R270). -/
def execFltHp (s : State) : Result :=
  checked .ed (fltHpNeeds s.role) true s (.next (realised cfg .fltHp s (fltHp cfg s)))

end Sys2Proof.Machine
end

