-- ==== Sys2Proof/Machine/Pitch.lean ====
section
/-! DEFINITION. The pitch units (43_pitch.md): PIT.CL, PIT.INTERP, PIT.DEC, PIT.CONV. The codeword maps
and the parity are fields of `CFG`; their defaults are in Machine/Defaults.lean. -/

namespace Sys2Proof.Machine

/-! ## Windows (R181) -/

/-- `Window0(TOL)` of R181: (tmin, tmax). -/
def window0 (c : Config) (tol : Int) : Int × Int :=
  let tmin := max 20 (tol - c.pitWin1)
  let tmax := tmin + 2 * c.pitWin1
  if 143 < tmax then (143 - 2 * c.pitWin1, 143) else (tmin, tmax)

/-- `Window1(T)` of R181: (tmin, tmax). -/
def window1 (c : Config) (lag : Int) : Int × Int :=
  let tmin := max 20 (lag - c.pitWin2Lo)
  let tmax := tmin + c.pitWin2W
  if 143 < tmax then (143 - c.pitWin2W, 143) else (tmin, tmax)

/-- `(T0MIN, T0MAX) <- Window1(T)`. -/
def State.setWindow (c : Config) (s : State) (lag : Int) : State :=
  (s.setAll .t0min fun _ => sat16 (window1 c lag).1).setAll .t0max fun _ => sat16 (window1 c lag).2

/-! ## Interpolation (R190) -/

/-- The two parameters of `Interp` for a lag and a fraction: the phase `t` and the offset `base`. -/
def interpPhase (lag f : Int) : Nat × Int := if 0 < f then ((3 - f).toNat, -lag - 1) else ((-f).toNat, -lag)

/-- `src(j)` of R190: the excitation below the subframe, the generated vector inside it. -/
def interpSrc (bs : Buffers) (sf : Subframe) (v : List I16) (j : Int) : Int :=
  if j < 0 then bs.at .exc (sfBase sf + j) else (v.getD j.toNat 0).toInt

/-- Sample `n` of `Interp`, from the samples generated before it. -/
def interpSample (c : Config) (bs : Buffers) (sf : Subframe) (lag f : Int) (v : List I16) (n : Nat) :
    I16 :=
  let t := (interpPhase lag f).1
  let base := (interpPhase lag f).2
  sat16 (shrR
    (sumN (fun i => interpSrc bs sf v (base + n - i) * (c.tInterp (t + 3 * i)).toInt) 10
      + sumN (fun i => interpSrc bs sf v (base + n + 1 + i) * (c.tInterp (3 - t + 3 * i)).toInt) 10)
    c.qWin)

/-- `Interp(sf, T, f)` of R190. -/
def interp (c : Config) (bs : Buffers) (sf : Subframe) (lag f : Int) : List I16 :=
  gen (interpSample c bs sf lag f) 40

/-- The fraction of a lag, in thirds (R188). -/
def fracInRange (f : Int) : Bool := decide (f = -1 ∨ f = 0 ∨ f = 1)

/-- `T0`, `T0F` and `ACV` written. -/
def State.setPitch (s : State) (lag f : Int) (v : List I16) : State :=
  ((s.setAll .t0 fun _ => sat16 lag).setAll .t0f fun _ => BitVec.ofInt 8 f).setAll .acv
    fun n => v.getD n 0

/-! ## PIT.CL (R180 to R184) -/

/-- `d[n]`: the backward-filtered target (R182). -/
def backFiltered (rs : Regs) : List Int :=
  tabFrom (fun n => sumN (fun i => rs.int .x (n + i) * rs.int .h i) (40 - n)) 0 40

/-- The criterion of the integer-lag search at lag `k` (R182). -/
def lagScore (bs : Buffers) (sf : Subframe) (d : List Int) (k : Int) : Int :=
  sumN (fun n => d.getD n 0 * bs.at .exc (sfBase sf + n - k)) 40

/-- The integers `lo, …, hi`. -/
def intRange (lo hi : Int) : List Int := tabFrom (fun i => lo + i) 0 (hi + 1 - lo).toNat

/-- The window searched (R182). -/
def clWindow (c : Config) (rs : Regs) : Subframe → Int × Int
  | .first => window0 c (rs.int .tol 0)
  | .second => (rs.int .t0min 0, rs.int .t0max 0)

/-- `Tint`: the integer lag chosen (R182). -/
def clLag (c : Config) (sf : Subframe) (s : State) : Int :=
  let w := clWindow c s.regs sf
  argMax (lagScore s.bufs sf (backFiltered s.regs)) w.1 (intRange w.1 w.2)

/-- The correlation of a candidate vector with `d` (R183). -/
def fracScore (d : List Int) (v : List I16) : Int := sumN (fun n => d.getD n 0 * (v.getD n 0).toInt) 40

/-- `F`: the fraction chosen (R183). -/
def clFrac (c : Config) (sf : Subframe) (s : State) (lag : Int) : Int :=
  if sf = .first ∧ c.pitFracMaxLag < lag then 0
  else argMax (fun f => fracScore (backFiltered s.regs) (interp c s.bufs sf lag f)) 0 c.pitFracOrder

/-- The effect of `PIT.CL sf` (R184). -/
def pitCl (c : Config) (sf : Subframe) (s : State) : State :=
  let lag := clLag c sf s
  let f := clFrac c sf s lag
  let s1 := s.setPitch lag f (interp c s.bufs sf lag f)
  match sf with
  | .first =>
    let p1 := c.p1Enc lag f
    ((s1.setFrom .prm 4 1 fun _ => BitVec.ofNat 16 p1).setFrom .prm 5 1
      fun _ => BitVec.ofNat 16 (c.parity p1)).setWindow c lag
  | .second => s1.setFrom .prm 10 1 fun _ => BitVec.ofNat 16 (c.p2Enc lag f (s.regs.int .t0min 0))

/-- What `PIT.CL sf` reads (R180). -/
def pitClNeeds : Subframe → List Need
  | .first => [.all .x, .all .h, .all .tol]
  | .second => [.all .x, .all .h, .all .t0min, .all .t0max]

/-- With `sf` = 1 the window must be one that R181 produces (R180). -/
def pitClInRange (c : Config) (rs : Regs) : Subframe → Bool
  | .first => true
  | .second =>
    decide (20 ≤ rs.int .t0min 0 ∧ rs.int .t0max 0 = rs.int .t0min 0 + c.pitWin2W
      ∧ rs.int .t0max 0 ≤ 143)

/-- `PIT.CL sf` (R180). -/
def execPitCl (sf : Subframe) (s : State) : Result :=
  checked .e (pitClNeeds sf) (pitClInRange cfg s.regs sf) s
    (.next (realised cfg (.pitCl sf) s (pitCl cfg sf s)))

/-! ## PIT.INTERP (R189) -/

/-- The effect of `PIT.INTERP sf` (R189). -/
def pitInterp (c : Config) (sf : Subframe) (s : State) : State :=
  let v := interp c s.bufs sf (s.regs.int .t0 0) (s.regs.int .t0f 0)
  s.setAll .acv fun n => v.getD n 0

/-- `PIT.INTERP sf` (R189). -/
def execPitInterp (sf : Subframe) (s : State) : Result :=
  checked .ed [.all .t0, .all .t0f] (s.regs.lagInRange && fracInRange (s.regs.int .t0f 0)) s
    (.next (realised cfg (.pitInterp sf) s (pitInterp cfg sf s)))

/-! ## PIT.DEC (R192 to R194) -/

/-- The fallback condition (R192): the parity bit protects P1 only. -/
def State.pitchLost (s : State) : Subframe → Bool
  | .first => s.bfi || s.pe
  | .second => s.bfi

/-- The lag and fraction of the subframe: decoded (R193), or the stored lag and 0 (R194). -/
def decLag (c : Config) (sf : Subframe) (s : State) : Int × Int :=
  if s.pitchLost sf then (s.dec.pitchLast.toInt, 0)
  else match sf with
    | .first => c.p1Dec (s.regs.nat .prm 4)
    | .second => c.p2Dec (s.regs.nat .prm 10) (s.regs.int .t0min 0)

/-- `D.PITCH_LAST` after the command: the decoded lag (R193), or the stored one incremented and clamped
(R194). -/
def nextPitchLast (c : Config) (sf : Subframe) (s : State) : I16 :=
  if s.pitchLost sf then sat16 (min (s.dec.pitchLast.toInt + 1) 143) else sat16 (decLag c sf s).1

/-- `D.PITCH_LAST` replaced. -/
def State.setPitchLast (s : State) (v : I16) : State := { s with dec := { s.dec with pitchLast := v } }

/-- The effect of `PIT.DEC sf` (R192). -/
def pitDec (c : Config) (sf : Subframe) (s : State) : State :=
  let lag := (decLag c sf s).1
  let f := (decLag c sf s).2
  let s1 := (s.setPitch lag f (interp c s.bufs sf lag f)).setPitchLast (nextPitchLast c sf s)
  let s2 := match sf with
    | .first => s1.setWindow c lag
    | .second => s1
  s2.raiseFlag .conceal (s.pitchLost sf)

/-- What `PIT.DEC sf` reads on the branch it takes (R192, R24). DEDUCED (notes/assumptions/22.md): of `T0MAX`,
which row V19 of R24 has subframe 1 read and R192 does not list, only the mark is read: R193 uses no value of it. -/
def pitDecNeeds (sf : Subframe) (s : State) : List Need :=
  if s.pitchLost sf then []
  else match sf with
    | .first => [needPrm 4 1]
    | .second => [needPrm 10 1, .all .t0min, .all .t0max]

/-- The range check of `PIT.DEC sf` on the branch it takes (R192). -/
def pitDecInRange (sf : Subframe) (s : State) : Bool :=
  s.pitchLost sf ||
    match sf with
    | .first => s.regs.prmInRange 4
    | .second => s.regs.prmInRange 10

/-- The highest source index of `Interp` stays below the sample it makes, so that every sample it
reads exists. True of every lag from 12 on (R190 derives it for lags from 19 on). -/
def lagReadable (lag f : Int) : Bool := decide ((interpPhase lag f).2 ≤ -11)

/-- The lowest excitation index of `Interp` is inside `EXC` (R61, R188). -/
def lagInHistory (sf : Subframe) (lag f : Int) : Bool :=
  (Buf.exc).inBounds (sfBase sf + (interpPhase lag f).2 - 9)

/-- `PIT.DEC sf` (R192). A lag that no encoder and no `PIT.DEC sf=0` leads to, possible only after a
host write of `T0MIN` or a restore of `D.PITCH_LAST`, runs as long as every sample it reads exists. -/
def execPitDec (sf : Subframe) (s : State) : Result :=
  let lag := (decLag cfg sf s).1
  let f := (decLag cfg sf s).2
  checked .d (pitDecNeeds sf s) (pitDecInRange sf s) s
    (require (lagReadable lag f) .parameterRange
      (require (lagInHistory sf lag f) .bufferBounds (.next (realised cfg (.pitDec sf) s (pitDec cfg sf s)))))

/-! ## PIT.CONV (R195) -/

/-- The exact convolution sum at `n` of two vectors of 40 samples. -/
def convSum (u v : Nat → Int) (n : Nat) : Int := sumN (fun i => u i * v (n - i)) (n + 1)

/-- The effect of `PIT.CONV` (R195). -/
def pitConv (c : Config) (s : State) : State :=
  s.setAll .y fun n => sat16 (shrR (convSum (s.regs.int .acv) (s.regs.int .h) n) c.qH)

/-- `PIT.CONV` (R195). -/
def execPitConv (s : State) : Result :=
  checked .e [.all .acv, .all .h] true s (.next (realised cfg .pitConv s (pitConv cfg s)))

end Sys2Proof.Machine
end

