-- ==== Sys2Proof/Machine/FixedCodebook.lean ====
section
/-! DEFINITION. The fixed-codebook unit (44_fixed_codebook.md): FCB.SEARCH, FCB.DEC, FCB.CONV. The bit
layout, the schedule and the generator are fields of `CFG`; their defaults are in
Machine/Defaults.lean. -/

namespace Sys2Proof.Machine

/-! ## Pitch sharpening (R222) -/

/-- `Sharpen(v, T, beta)` of R222: in place, so that a sample already modified feeds later ones. -/
def sharpen (c : Config) (v : Nat → Int) (lag : Nat) (beta : Int) : List Int :=
  gen (fun out n =>
    if lag < 40 ∧ lag ≤ n then (sat16 (v n + shrR (beta * out.getD (n - lag) 0) c.qGp)).toInt
    else v n) 40

/-- The lag `T0` as an index; the admitted range is 19..144. -/
def Regs.lag (rs : Regs) : Nat := (rs.int .t0 0).toNat

/-- A gain clamped to [`BETA_MIN`, `BETA_MAX`] in format `Q_GP` (R222, R246). -/
def boundedGain (c : Config) (g : Int) : Int := clamp g (q c.betaMin c.qGp) (q c.betaMax c.qGp)

/-! ## FCB.SEARCH (R211 to R216) -/

/-- What the criterion needs (R212): `da[n]`, whether `s[n]` is +1, and `ps(i, j)`. -/
structure PulseTable where
  da : List Int
  pos : List Bool
  ps : List (List Int)
deriving DecidableEq, Repr

/-- `X2[n]`: the target with the adaptive-codebook contribution removed (R212 (b)). -/
def reducedTarget (c : Config) (rs : Regs) (n : Nat) : I16 :=
  sat16 (rs.int .x n - shrR (rs.int .gpu 0 * rs.int .y n) c.qGp)

/-- `d[n]` of R212 (c): the correlation of the reduced target with the sharpened response. -/
def fcbCorr (x2 : List Int) (hs : List Int) (n : Nat) : Int :=
  sumN (fun i => x2.getD (n + i) 0 * hs.getD i 0) (40 - n)

/-- `phi(i, j)` of R212 (e), for `i ≤ j`. -/
def fcbPhi (hs : List Int) (i j : Nat) : Int :=
  sumN (fun n => hs.getD (n + j - i) 0 * hs.getD n 0) (40 - j)

/-- The preparation of R212 (c) to (e). -/
def pulseTable (x2 hs : List Int) : PulseTable :=
  let d := tabFrom (fcbCorr x2 hs) 0 40
  let sign (n : Nat) : Int := if 0 ≤ d.getD n 0 then 1 else -1
  { da := d.map fun v => |v|
    pos := d.map fun v => decide (0 ≤ v)
    ps := tabFrom (fun i => tabFrom (fun j =>
      sign i * sign j * fcbPhi hs (min i j) (max i j)) 0 40) 0 40 }

/-- `da[n]`. -/
def PulseTable.corr (t : PulseTable) (n : Nat) : Int := t.da.getD n 0

/-- `ps(i, j)`. -/
def PulseTable.energy (t : PulseTable) (i j : Nat) : Int := (t.ps.getD i []).getD j 0

/-- `better(Cq, Eq, b)` of R215, the candidate ratio against `num/den`, in exact integers. -/
def better (cq eq num den : Int) : Bool := decide (cq * cq * den - num * eq > 0)

/-- The best pair of a phase so far: its ratio `num/den`, its positions, its `Cq` and `Eq` (R214). -/
structure Pick where
  num : Int
  den : Int
  p : Nat
  p' : Nat
  cq : Int
  eq : Int
deriving DecidableEq, Repr

/-- One candidate pair compared with the best so far. -/
def Pick.consider (best : Pick) (p p' : Nat) (cq eq : Int) : Pick :=
  if better cq eq best.num best.den then ⟨cq * cq, eq, p, p', cq, eq⟩ else best

/-- The positions of track `t` (R210). -/
def trackPos (t : Nat) : List Nat := tabFrom (fun i => t + 5 * i) 0 8

/-- The pairs of two lists, the first list in the outer loop (R15). -/
def pairs {α β : Type} (l : List α) (m : List β) : List (α × β) := l.flatMap fun x => m.map fun y => (x, y)

/-- The two positions of largest `da` on a track, largest first (R214, phase A). -/
def twoLargest (t : PulseTable) (track : Nat) : List Nat :=
  let first := argMax t.corr track (trackPos track)
  [first, argMax t.corr track ((trackPos track).filter fun j => j ≠ first)]

/-- Phase A (R214): the two largest positions of track `u`, each with the 8 positions of track `v`. -/
def phaseA (t : PulseTable) (u v : Nat) : Pick :=
  (pairs (twoLargest t u) (trackPos v)).foldl (fun best m =>
    best.consider m.1 m.2 (t.corr m.1 + t.corr m.2)
      (t.energy m.1 m.1 + t.energy m.2 m.2 + 2 * t.energy m.1 m.2)) ⟨-1, 1, u, v, 0, 0⟩

/-- Phase B (R214): the 8 × 8 positions of tracks `w` and `zt`, the pair of phase A fixed. -/
def phaseB (t : PulseTable) (w zt : Nat) (a : Pick) : Pick :=
  (pairs (trackPos w) (trackPos zt)).foldl (fun best m =>
    best.consider m.1 m.2 (a.cq + t.corr m.1 + t.corr m.2)
      (a.eq + t.energy m.1 m.1 + t.energy m.2 m.2
        + 2 * (t.energy a.p m.1 + t.energy a.p' m.1 + t.energy a.p m.2 + t.energy a.p' m.2
          + t.energy m.1 m.2))) ⟨-1, 1, w, zt, a.cq, a.eq⟩

/-- The running best over the passes: its ratio and its four positions (R214). -/
structure BestPulses where
  num : Int
  den : Int
  m : List Nat
deriving DecidableEq, Repr

/-- One pass of the schedule (R214). -/
def BestPulses.pass (t : PulseTable) (best : BestPulses) (p : Pass) : BestPulses :=
  let a := phaseA t p.u p.v
  let b := phaseB t p.w p.zt a
  if 0 ≤ b.num ∧ better b.cq b.eq best.num best.den = true then
    ⟨b.cq * b.cq, b.eq, [a.p, a.p', b.p, b.p']⟩
  else best

/-- The position filed under a track, `first` where none is. -/
def filed (m : List Nat) (onTrack : Nat → Bool) (first : Nat) : Nat := (m.find? onTrack).getD first

/-- The pulses chosen over the whole schedule, tracks 3 and 4 filed together (R214), each with the sign
of its correlation (R213). -/
def searchPulses (c : Config) (t : PulseTable) : Pulses :=
  let m := (c.fcbSchedule.foldl (BestPulses.pass t) ⟨-1, 1, [0, 1, 2, 3]⟩).m
  let m0 := filed m (fun j => j % 5 == 0) 0
  let m1 := filed m (fun j => j % 5 == 1) 1
  let m2 := filed m (fun j => j % 5 == 2) 2
  let m3 := filed m (fun j => 3 ≤ j % 5) 3
  let sign (n : Nat) : Bool := t.pos.getD n true
  ⟨m0, m1, m2, m3, sign m0, sign m1, sign m2, sign m3⟩

/-- The amplitude of a pulse, `s · 2^Q_FCV` (R210). -/
def pulseAmp (c : Config) (positive : Bool) : Int := if positive then 2 ^ c.qFcv else -2 ^ c.qFcv

/-- `c[n]`: the code vector of four pulses, zero elsewhere (R210, R216, R220); of two pulses at one
position the later stands. -/
def pulseVector (c : Config) (p : Pulses) (n : Nat) : Int :=
  if n = p.m3 then pulseAmp c p.p3
  else if n = p.m2 then pulseAmp c p.p2
  else if n = p.m1 then pulseAmp c p.p1
  else if n = p.m0 then pulseAmp c p.p0
  else 0

/-- `FCV` from the pulses: the code vector sharpened (R216, R220). -/
def codeVector (c : Config) (p : Pulses) (lag : Nat) (beta : Int) (n : Nat) : I16 :=
  sat16 ((sharpen c (pulseVector c p) lag beta).getD n 0)

/-- `Conv(c, h)[n]` of R218. -/
def convSample (c : Config) (u v : Nat → Int) (n : Nat) : I16 :=
  sat16 (rnd ((convSum u v n : Rat) * 2 ^ c.qZ / 2 ^ (c.qFcv + c.qH)))

/-- `Z <- Conv(FCV, H)` on the registers as they stand (R218). -/
def setZ (c : Config) (s : State) : State :=
  s.setAll .z (convSample c (s.regs.int .fcv) (s.regs.int .h))

/-- `β` on an encoder channel (R222). -/
def encBeta (c : Config) (s : State) : Int := boundedGain c s.enc.gpLast.toInt

/-- The pulses `FCB.SEARCH` chooses (R211). -/
def fcbPulses (c : Config) (s : State) : Pulses :=
  let hs := sharpen c (s.regs.int .h) s.regs.lag (encBeta c s)
  let x2 := tabFrom (fun n => (reducedTarget c s.regs n).toInt) 0 40
  searchPulses c (pulseTable x2 hs)

/-- The effect of `FCB.SEARCH sf` (R216). -/
def fcbSearch (c : Config) (sf : Subframe) (s : State) : State :=
  let p := fcbPulses c s
  let cw := c.fcbEncode p
  setZ c ((((s.setAll .x2 (reducedTarget c s.regs)).setAll .fcv
    (codeVector c p s.regs.lag (encBeta c s))).setFrom .prm (6 + 5 * sf.idx) 1
    fun _ => BitVec.ofNat 16 cw.1).setFrom .prm (7 + 5 * sf.idx) 1 fun _ => BitVec.ofNat 16 cw.2)

/-- What `FCB.SEARCH` reads (R211). -/
def fcbSearchNeeds : List Need := [.all .x, .all .y, .all .gpu, .all .h, .all .t0]

/-- `FCB.SEARCH sf` (R211). -/
def execFcbSearch (sf : Subframe) (s : State) : Result :=
  checked .e fcbSearchNeeds s.regs.lagInRange s (.next (realised cfg (.fcbSearch sf) s (fcbSearch cfg sf s)))

/-! ## FCB.DEC (R219 to R221) -/

/-- `FCV` from the two codewords (R220). -/
def fcvOfCodewords (c : Config) (s : State) (cw sw : Nat) : State :=
  s.setAll .fcv (codeVector c (c.fcbDecode cw sw) s.regs.lag s.dec.gpBnd.toInt)

/-- The effect of `FCB.DEC sf` (R219): the received codewords, or two steps of the generator. -/
def fcbDec (c : Config) (sf : Subframe) (s : State) : State :=
  if s.bfi then
    let seed1 := c.prng s.dec.seed
    let seed2 := c.prng seed1
    let s1 := fcvOfCodewords c s (seed1.extractLsb' 0 13).toNat (seed2.extractLsb' 0 4).toNat
    ({ s1 with dec := { s1.dec with seed := seed2 } } : State).raiseFlag .conceal true
  else fcvOfCodewords c s (s.regs.nat .prm (6 + 5 * sf.idx)) (s.regs.nat .prm (7 + 5 * sf.idx))

/-- What `FCB.DEC sf` reads on the branch it takes (R219). -/
def fcbDecNeeds (sf : Subframe) (s : State) : List Need :=
  if s.bfi then [.all .t0] else [.all .t0, needPrm (6 + 5 * sf.idx) 2]

/-- The range check of `FCB.DEC sf` on the branch it takes (R219). -/
def fcbDecInRange (sf : Subframe) (s : State) : Bool :=
  s.regs.lagInRange &&
    (s.bfi || (s.regs.prmInRange (6 + 5 * sf.idx) && s.regs.prmInRange (7 + 5 * sf.idx)))

/-- `FCB.DEC sf` (R219). -/
def execFcbDec (sf : Subframe) (s : State) : Result :=
  checked .d (fcbDecNeeds sf s) (fcbDecInRange sf s) s (.next (realised cfg (.fcbDec sf) s (fcbDec cfg sf s)))

/-! ## FCB.CONV (R218) -/

/-- `FCB.CONV` (R218). -/
def execFcbConv (s : State) : Result :=
  checked .ed [.all .fcv, .all .h] true s (.next (realised cfg .fcbConv s (setZ cfg s)))

end Sys2Proof.Machine
end

