-- ==== Sys2Proof/Machine/Gain.lean ====
section
/-! DEFINITION. The gain unit (45_gain.md): GAIN.PRED, GAIN.QUANT, GAIN.DEC. -/

namespace Sys2Proof.Machine

/-! ## GAIN.PRED (R240) -/

/-- `en`: the exact energy of `FCV`, floored to 1 (R240, R116). -/
def codeEnergy (rs : Regs) : Int :=
  let en := sumN (fun n => rs.int .fcv n * rs.int .fcv n) 40
  if en = 0 then 1 else en

/-- `Ep`: the predicted energy in dB (R240). -/
def predictedDb (c : Config) (s : State) : Rat :=
  sumN (fun k => val (c.tGainMa k).toInt 15 * val (s.gpeHist k) c.qGpe) 4

/-- `(g · 2^Q_GC)²` of R240: `g = 10^((Ep + GAIN_MEAN_DB - Ec)/20)`, and `10^(Ec/10)` is the rational
`en / (40 · 2^(2·Q_FCV))`. -/
def predictedSquare (c : Config) (s : State) : Rat :=
  pow10 ((predictedDb c s + c.gainMeanDb) / 10) * (40 * 2 ^ (2 * c.qFcv)) / codeEnergy s.regs
    * 2 ^ (2 * c.qGc)

/-- The effect of `GAIN.PRED` (R240). -/
def gainPred (c : Config) (s : State) : State :=
  s.setAll .gcp fun _ => BitVec.ofInt 32 (rndSqrtPos31 (predictedSquare c s))

/-- `GAIN.PRED` (R240). -/
def execGainPred (s : State) : Result :=
  checked .ed [.all .fcv] true s (.next (realised cfg .gainPred s (gainPred cfg s)))

/-! ## The gains of a codebook pair -/

/-- Column 0 of the two rows summed: the adaptive gain, format `Q_GP` (R244). -/
def pairGp (c : Config) (i j : Nat) : Int := (c.tGa i 0).toInt + (c.tGb j 0).toInt

/-- Column 1 of the two rows summed: the correction factor, format `Q_GAMMA` (R244). -/
def pairGamma (c : Config) (i j : Nat) : Int := (c.tGa i 1).toInt + (c.tGb j 1).toInt

/-- `GP` of a pair (R245, R247). -/
def gpWord (c : Config) (i j : Nat) : I16 := sat16 (pairGp c i j)

/-- `GC` of a pair under the predicted gain (R245, R247). -/
def gcWord (c : Config) (i j : Nat) (gcp : Int) : I32 := sat32 (shrR (pairGamma c i j * gcp) c.qGamma)

/-- The value pushed into the history for a pair: its correction factor in dB, one unit where it is zero
or less (R245). -/
def gammaDb (c : Config) (i j : Nat) : I16 := dbOf (max (pairGamma c i j) 1).toNat c.qGamma c.qGpe

/-- `GP <- p`, `GC <- g`. -/
def State.setGains (s : State) (p : I16) (g : I32) : State := (s.setAll .gp fun _ => p).setAll .gc fun _ => g

/-! ## GAIN.QUANT (R241 to R245) -/

/-- The five cross-terms (R242), exact; `z[n]` is `Z[n]` read in format `Q_Z`. -/
structure CrossTerms where
  xy : Rat
  yy : Rat
  xz : Rat
  yz : Rat
  zz : Rat
deriving DecidableEq, Repr

/-- The cross-terms of the registers `X`, `Y`, `Z` (R242). -/
def crossTerms (c : Config) (rs : Regs) : CrossTerms :=
  let dot (u v : Reg) : Int := sumN (fun n => rs.int u n * rs.int v n) 40
  { xy := dot .x .y
    yy := dot .y .y
    xz := val (dot .x .z) c.qZ
    yz := val (dot .y .z) c.qZ
    zz := val (dot .z .z) (2 * c.qZ) }

/-- `det` of R243. -/
def CrossTerms.det (t : CrossTerms) : Rat := t.yy * t.zz - t.yz * t.yz

/-- `(gp*, gc*)` of R243. -/
def CrossTerms.optimum (t : CrossTerms) : Rat × Rat :=
  if 0 < t.det then
    ((t.xy * t.zz - t.xz * t.yz) / t.det, (t.xz * t.yy - t.xy * t.yz) / t.det)
  else (0, 0)

/-- `J` of R244 for two gains. -/
def CrossTerms.score (t : CrossTerms) (gp gc : Rat) : Rat :=
  gp * gp * t.yy + gc * gc * t.zz - 2 * gp * t.xy - 2 * gc * t.xz + 2 * gp * gc * t.yz

/-- `J` of a pair of codebook rows under the predicted gain (R244). -/
def pairScore (c : Config) (t : CrossTerms) (gcp : Int) (m : Nat × Nat) : Rat :=
  t.score (val (pairGp c m.1 m.2) c.qGp) (val (pairGamma c m.1 m.2) c.qGamma * val gcp c.qGc)

/-- The pairs of the two index windows, in visiting order (R244). -/
def gainPairs (c : Config) (t : CrossTerms) (gcp : Int) : List (Nat × Nat) :=
  let w := c.gainPresel t.optimum.1 t.optimum.2 gcp
  pairs (List.range' w.1 c.ncanA) (List.range' w.2 c.ncanB)

/-- The winning pair `(ia, ib)` (R244). -/
def gainPair (c : Config) (rs : Regs) : Nat × Nat :=
  let t := crossTerms c rs
  let gcp := rs.int .gcp 0
  argMin (pairScore c t gcp) (0, 0) (gainPairs c t gcp)

/-- `T_GA_MAP`: the inverse of `T_GA_IMAP` (R245). -/
def gaMap (c : Config) (i : Nat) : Nat := if h : i < 8 then (c.gaImap.symm ⟨i, h⟩).val else 0

/-- `T_GB_MAP`: the inverse of `T_GB_IMAP` (R245). -/
def gbMap (c : Config) (i : Nat) : Nat := if h : i < 16 then (c.gbImap.symm ⟨i, h⟩).val else 0

/-- `HistPush(u)` on the encoder's history (R245). -/
def State.pushEncGpe (s : State) (u : I16) : State :=
  { s with enc := { s.enc with gpeHist := histPushed s.enc.gpeHist u } }

/-- The effect of `GAIN.QUANT sf` (R245). -/
def gainQuant (c : Config) (sf : Subframe) (s : State) : State :=
  let ia := (gainPair c s.regs).1
  let ib := (gainPair c s.regs).2
  (((s.setGains (gpWord c ia ib) (gcWord c ia ib (s.regs.int .gcp 0))).setFrom .prm (8 + 5 * sf.idx) 1
    fun _ => BitVec.ofNat 16 (gaMap c ia)).setFrom .prm (9 + 5 * sf.idx) 1
    fun _ => BitVec.ofNat 16 (gbMap c ib)).pushEncGpe (gammaDb c ia ib)

/-- What `GAIN.QUANT` reads (R241). -/
def gainQuantNeeds : List Need := [.all .x, .all .y, .all .z, .all .gcp]

/-- `GAIN.QUANT sf` (R241). -/
def execGainQuant (sf : Subframe) (s : State) : Result :=
  checked .e gainQuantNeeds true s (.next (realised cfg (.gainQuant sf) s (gainQuant cfg sf s)))

/-! ## GAIN.DEC (R246 to R248) -/

/-- `T_GA_IMAP` (R247). -/
def gaImap (c : Config) (i : Nat) : Nat := if h : i < 8 then (c.gaImap ⟨i, h⟩).val else 0

/-- `T_GB_IMAP` (R247). -/
def gbImap (c : Config) (i : Nat) : Nat := if h : i < 16 then (c.gbImap ⟨i, h⟩).val else 0

/-- The gains produced, as `GAIN.DEC` leaves them in the registers and the channel state (R246): raw,
bounded, and fixed; and the history pushed. -/
def State.setDecGains (c : Config) (s : State) (p : I16) (g : I32) (u : I16) : State :=
  { s.setGains p g with
    dec := { s.dec with
      gpRaw := p
      gpBnd := sat16 (boundedGain c p.toInt)
      gc := g
      gpeHist := histPushed s.dec.gpeHist u } }

/-- `GP` of an erased subframe from the previous raw gain (R248). -/
def erasedGp (c : Config) (p : I16) : I16 :=
  sat16 (min (rnd (9 / 10 * (p.toInt : Rat))) (q (9 / 10) c.qGp))

/-- `GC` of an erased subframe from the previous one (R248). It fits an int32 (R249). -/
def erasedGc (g : I32) : I32 := BitVec.ofInt 32 (rnd (49 / 50 * (g.toInt : Rat)))

/-- The value pushed on an erased subframe: the clamped average less 4 dB (R248). -/
def erasedGpe (c : Config) (hist : Vec I16 4) : I16 :=
  sat16 (max (shrR (sumN (fun k => (hist.elD k 0).toInt) 4) 2 - q c.gpeEraseDb c.qGpe)
    (q c.gpeFloorDb c.qGpe))

/-- `GAIN.DEC` on a good frame (R247). -/
def gainDecGood (c : Config) (sf : Subframe) (s : State) : State :=
  let ia := gaImap c (s.regs.nat .prm (8 + 5 * sf.idx))
  let ib := gbImap c (s.regs.nat .prm (9 + 5 * sf.idx))
  s.setDecGains c (gpWord c ia ib) (gcWord c ia ib (s.regs.int .gcp 0)) (gammaDb c ia ib)

/-- `GAIN.DEC` on an erased frame (R248). -/
def gainDecErased (c : Config) (s : State) : State :=
  (s.setDecGains c (erasedGp c s.dec.gpRaw) (erasedGc s.dec.gc)
    (erasedGpe c s.dec.gpeHist)).raiseFlag .conceal true

/-- The effect of `GAIN.DEC sf` (R246). -/
def gainDec (c : Config) (sf : Subframe) (s : State) : State :=
  if s.bfi then gainDecErased c s else gainDecGood c sf s

/-- What `GAIN.DEC sf` reads on the branch it takes (R246). -/
def gainDecNeeds (sf : Subframe) (s : State) : List Need :=
  if s.bfi then [] else [.all .gcp, needPrm (8 + 5 * sf.idx) 2]

/-- The range check of `GAIN.DEC sf` on the branch it takes (R246). -/
def gainDecInRange (sf : Subframe) (s : State) : Bool :=
  s.bfi || (s.regs.prmInRange (8 + 5 * sf.idx) && s.regs.prmInRange (9 + 5 * sf.idx))

/-- `GAIN.DEC sf` (R246). -/
def execGainDec (sf : Subframe) (s : State) : Result :=
  checked .d (gainDecNeeds sf s) (gainDecInRange sf s) s
    (.next (realised cfg (.gainDec sf) s (gainDec cfg sf s)))

end Sys2Proof.Machine
end

