-- ==== Sys2Proof/Machine/LpAnalysis.lean ====
section
/-! DEFINITION. The LP analysis unit (41_lp_analysis.md): LP.WIN, LP.ACORR, LP.LAG, LP.LEV. -/

namespace Sys2Proof.Machine

/-! ## LP.WIN (R130) -/

/-- `WSIG[i]`: the windowed sample, rounded and saturated. -/
def windowed (c : Config) (bs : Buffers) (i : Nat) : I16 :=
  sat16 (shrR (bs.at .sig i * (c.tWin i).toInt) c.qWin)

/-- The effect of `LP.WIN` (R130). -/
def lpWin (c : Config) (s : State) : State := s.setAll .wsig (windowed c s.bufs)

/-- `LP.WIN` (R130). -/
def execLpWin (s : State) : Result := checked .e [] true s (.next (realised cfg .lpWin s (lpWin cfg s)))

/-! ## LP.ACORR (R131, R132) -/

/-- `acc[k]`: the exact autocorrelation sum at lag `k` of the 240 samples `w`. -/
def acorrSum (w : Nat → Int) (k : Nat) : Int := sumN (fun j => w (j + k) * w j) (240 - k)

/-- `acc[k]` after the floor: a zero lag-0 sum becomes 1. -/
def acorrFloored (w : Nat → Int) (k : Nat) : Int :=
  if k = 0 ∧ acorrSum w 0 = 0 then 1 else acorrSum w k

/-- The rescaling count `s`, from the floored lag-0 sum: a right shift when positive. -/
def acorrScale (c : Config) (acc0 : Nat) : Int :=
  if 2 ^ 31 ≤ acc0 then norm64to31 acc0
  else if c.acorrNormUp then -(clz32 acc0 - 1 : Nat)
  else 0

/-- A value shifted right by `n`, or left by `-n`, the right shift arithmetic (R113). -/
def rescale (x n : Int) : Int := if 0 ≤ n then shr x n.toNat else shl x (-n).toNat

/-- The effect of `LP.ACORR` (R131). The exact rescaled sums fit `R` (R139 (a)). -/
def lpAcorr (c : Config) (s : State) : State :=
  let w := s.regs.int .wsig
  let n := acorrScale c (acorrFloored w 0).toNat
  ((s.setAll .r fun k => BitVec.ofInt 32 (rescale (acorrFloored w k) n)).setAll .rscale
    fun _ => BitVec.ofInt 8 n).raiseFlag .r0Floor (acorrSum w 0 == 0)

/-- `LP.ACORR` (R131). -/
def execLpAcorr (s : State) : Result :=
  checked .e [.all .wsig] true s (.next (realised cfg .lpAcorr s (lpAcorr cfg s)))

/-! ## LP.LAG (R133) -/

/-- The exact `RL[k]`. -/
def lagWindowed (c : Config) (rs : Regs) (k : Nat) : Int :=
  if k = 0 then rs.int .r 0 else shrR (rs.int .r k * (c.tLagWin k).toInt) c.qWin

/-- Every `RL[k]` fits an int32 (R112). -/
def lagFits (c : Config) (rs : Regs) : Bool :=
  (List.range 11).all fun k => fits32 (lagWindowed c rs k)

/-- The effect of `LP.LAG` (R133). -/
def lpLag (c : Config) (s : State) : State :=
  s.setAll .rl fun k => BitVec.ofInt 32 (lagWindowed c s.regs k)

/-- `LP.LAG` (R133). Its only overflow is `R[k]` = -2^31 with `T_LAGWIN[k]` = -2^15, refused by R112. -/
def execLpLag (s : State) : Result :=
  checked .e [.all .r] true s (require (lagFits cfg s.regs) .overflow32
    (.next (realised cfg .lpLag s (lpLag cfg s))))

/-! ## LP.LEV (R134, R135) -/

/-- The recursion after order `i`: `a^(i)_1 .. a^(i)_i`, `k_1 .. k_i`, `E_i`, all exact. -/
structure Levinson where
  coef : List Rat
  refl : List Rat
  energy : Rat
deriving DecidableEq, Repr

/-- `k_i` of order `i = coef.length + 1`; a zero denominator is floored to 1 (R116). -/
def Levinson.reflection (rl : Nat → Int) (st : Levinson) : Rat :=
  let i := st.coef.length + 1
  let past : Rat := sumN (fun j => st.coef.getD j 0 * (rl (i - 1 - j) : Rat)) (i - 1);
  (-(rl i + past)) / floorDen st.energy

/-- One order of the recursion; none where the residual energy becomes negative. -/
def Levinson.order (rl : Nat → Int) (st : Levinson) : Option Levinson :=
  let i := st.coef.length + 1
  let k := st.reflection rl
  let e := (1 - k * k) * st.energy
  if e < 0 then none
  else some
    { coef := tabFrom (fun j => st.coef.getD j 0 + k * st.coef.getD (i - 2 - j) 0) 0 (i - 1) ++ [k]
      refl := st.refl ++ [k]
      energy := e }

/-- `n` orders from order 0. -/
def Levinson.run (rl : Nat → Int) (e0 : Rat) : Nat → Option Levinson
  | 0 => some ⟨[], [], e0⟩
  | n + 1 => (Levinson.run rl e0 n).bind (Levinson.order rl)

/-- The whole recursion on `RL`: a negative `RL[0]` is refused, a zero one floored to 1. -/
def levinson (rl : Nat → Int) : Option Levinson :=
  if rl 0 < 0 then none
  else Levinson.run rl (if rl 0 = 0 then 1 else (rl 0 : Rat)) 10

/-- The three outputs of a completed recursion, each rounded once (R135). -/
def lpLevWrite (c : Config) (st : Levinson) (s : State) : State :=
  (((s.setAll .rc fun i => sat32 (q (st.refl.getD i 0) c.qRc)).setAll .a
    fun j => sat16 (q (st.coef.getD j 0) c.qLp)).setAll .eres
    fun _ => BitVec.ofInt 32 (rnd st.energy)).raiseFlag .r0Floor (s.regs.int .rl 0 == 0)

/-- `LP.LEV` past the common checks (R134): refused where the energy becomes negative. -/
def lpLev (c : Config) (s : State) : Result :=
  match levinson (s.regs.int .rl) with
  | none => .refused .levinsonEnergy
  | some st => .next (realised c .lpLev s (lpLevWrite c st s))

/-- `LP.LEV` (R134). -/
def execLpLev (s : State) : Result := checked .e [.all .rl] true s (lpLev cfg s)

end Sys2Proof.Machine
end

