-- ==== Sys2Proof/Machine/Lsp.lean ====
section
/-! DEFINITION. The LSP units (42_lsp_conversion.md): LSP.ROOT, LSP.INTERP, LSP.TOLP, LSF.STAB,
LSF.COS, LSF.DEC. -/

namespace Sys2Proof.Machine

/-! ## LSP.ROOT (R150 to R153) -/

/-- `f1(0..5)` of R151, from `a i` = `a_i`. -/
def sumPoly (a : Nat → Rat) : List Rat :=
  gen (fun f k => if k = 0 then 1 else a k + a (11 - k) - f.getD (k - 1) 0) 6

/-- `f2(0..5)` of R151. -/
def diffPoly (a : Nat → Rat) : List Rat :=
  gen (fun f k => if k = 0 then 1 else a k - a (11 - k) + f.getD (k - 1) 0) 6

/-- `C_f(X)` of R152 at the abscissa `x` = `val(X, Q_LSP)`; element `m` of the list is `b_(5-m)`. -/
def chebyshev (f : List Rat) (x : Rat) : Rat :=
  let b := gen (fun b m =>
    if m = 0 then 1
    else 2 * x * b.getD (m - 1) 0 - (if m = 1 then 0 else b.getD (m - 2) 0) + f.getD m 0) 5
  x * b.getD 4 0 - b.getD 3 0 + f.getD 5 0 / 2

/-- `neg(y)` of R153: a value of exactly zero is non-negative. -/
def isNeg (y : Rat) : Bool := decide (y < 0)

/-- An interval that holds a sign change, with the values at its ends. -/
structure Bracket where
  xl : Int
  yl : Rat
  xh : Int
  yh : Rat
deriving DecidableEq, Repr

/-- One bisection step (R153): the midpoint is the floor of the mean. -/
def Bracket.halve (eval : Int → Rat) (b : Bracket) : Bracket :=
  let xm := (b.xl + b.xh) / 2
  let ym := eval xm
  if isNeg b.yl ≠ isNeg ym then { b with xh := xm, yh := ym } else { b with xl := xm, yl := ym }

/-- The linear interpolation that ends the search of one root (R153). -/
def Bracket.root (b : Bracket) : I16 :=
  sat16 (rnd ((b.xl : Rat) - b.yl * ((b.xh : Rat) - b.xl) / (b.yh - b.yl)))

/-- The search between two grid points (R153): which polynomial is walked, the point it is at and the
value there, and the roots found. -/
structure RootSearch where
  onDiff : Bool
  xa : Int
  ya : Rat
  roots : List I16
deriving DecidableEq, Repr

/-- One grid point `xb` of the walk; nothing once ten roots are found. -/
def RootSearch.visit (c : Config) (f1 f2 : List Rat) (st : RootSearch) (xb : Int) : RootSearch :=
  if st.roots.length = 10 then st
  else
    let eval (onDiff : Bool) (x : Int) : Rat :=
      chebyshev (if onDiff then f2 else f1) (val x c.qLsp)
    let yb := eval st.onDiff xb
    if isNeg st.ya ≠ isNeg yb then
      let b : Bracket := ⟨st.xa, st.ya, xb, yb⟩
      let xr := ((b.halve (eval st.onDiff)).halve (eval st.onDiff)).root
      { onDiff := !st.onDiff
        xa := xr.toInt
        ya := eval (!st.onDiff) xr.toInt
        roots := st.roots ++ [xr] }
    else { st with xa := xb, ya := yb }

/-- The roots found over the whole grid for the coefficients `a` (R153). -/
def lspRoots (c : Config) (a : Nat → Rat) : List I16 :=
  let f1 := sumPoly a
  let f2 := diffPoly a
  let g0 := (c.tCosGrid 0).toInt
  let start : RootSearch := ⟨false, g0, chebyshev f1 (val g0 c.qLsp), []⟩
  ((tabFrom (fun j => (c.tCosGrid j).toInt) 1 50).foldl (RootSearch.visit c f1 f2) start).roots

/-- The effect of `LSP.ROOT` (R150): the ten roots, or the previous frame's LSP. -/
def lspRoot (c : Config) (s : State) : State :=
  let roots := lspRoots c fun i => val (s.regs.int .a (i - 1)) c.qLp
  let found := roots.length == 10
  let lsp (i : Nat) : I16 := if found then roots.getD i 0 else s.enc.lspPrev.elD i 0
  let s1 := (s.setAll .lsp lsp).raiseFlag .rootFail (!found)
  { s1 with enc := { s1.enc with lspPrev := Vec.tab lsp } }

/-- `LSP.ROOT` (R150). -/
def execLspRoot (s : State) : Result :=
  checked .e [.all .a] true s (.next (realised cfg .lspRoot s (lspRoot cfg s)))

/-! ## LSP.INTERP (R154) -/

/-- The effect of `LSP.INTERP` (R154): the rounded mean of two int16, which is an int16. -/
def lspInterp (s : State) : State :=
  s.setAll .ilsp fun i => sat16 (shrR (s.qlspPrev i + s.regs.int .qlsp i) 1)

/-- `LSP.INTERP` (R154). -/
def execLspInterp (s : State) : Result :=
  checked .ed [.all .qlsp] true s (.next (realised cfg .lspInterp s (lspInterp s)))

/-! ## LSP.TOLP (R155, R161) -/

/-- One factor `1 - 2·x·z^-1 + z^-2` multiplied in: one round of `GetPol`'s loop, `i = f.length`. -/
def addFactor (f : List Rat) (x : Rat) : List Rat :=
  let i := f.length
  let b := -2 * x
  tabFrom (fun j =>
    if j = 0 then 1
    else if j = 1 then f.getD 1 0 + b
    else if j < i then f.getD j 0 + b * f.getD (j - 1) 0 + f.getD (j - 2) 0
    else b * f.getD (i - 1) 0 + 2 * f.getD (i - 2) 0) 0 (i + 1)

/-- `GetPol` of R161 on five cosines, the first given apart. -/
def getPol (x : Rat) (rest : List Rat) : List Rat := rest.foldl addFactor [1, -2 * x]

/-- `a_i`, `i` in 1..10, from the ten LSP values `x 1 .. x 10` (R161). -/
def lpOfLsp (x : Nat → Rat) (i : Nat) : Rat :=
  let f1 := getPol (x 1) [x 3, x 5, x 7, x 9]
  let f2 := getPol (x 2) [x 4, x 6, x 8, x 10]
  let p1 (k : Nat) : Rat := f1.getD k 0 + f1.getD (k - 1) 0
  let p2 (k : Nat) : Rat := f2.getD k 0 - f2.getD (k - 1) 0
  if i ≤ 5 then (p1 i + p2 i) / 2 else (p1 (11 - i) - p2 (11 - i)) / 2

/-- The register `LSP.TOLP sf` reads (R155). -/
def tolpSource : Subframe → Reg
  | .first => .ilsp
  | .second => .qlsp

/-- The effect of `LSP.TOLP sf` (R155). -/
def lspTolp (c : Config) (sf : Subframe) (s : State) : State :=
  s.setFrom .aq (aqBase sf) 10 fun k =>
    sat16 (q (lpOfLsp (fun i => val (s.regs.int (tolpSource sf) (i - 1)) c.qLsp) (k + 1)) c.qLp)

/-- `LSP.TOLP sf` (R155). -/
def execLspTolp (sf : Subframe) (s : State) : Result :=
  checked .ed [.all (tolpSource sf)] true s (.next (realised cfg (.lspTolp sf) s (lspTolp cfg sf s)))

/-! ## LSF.STAB (R156) -/

/-- The floor clamp of the first value. -/
def floorFirst (lo : Int) : List Int → List Int
  | [] => []
  | x :: xs => max x lo :: xs

/-- The ceiling clamp of the last value. -/
def ceilLast (hi : Int) : List Int → List Int
  | [] => []
  | [x] => [min x hi]
  | x :: y :: xs => x :: ceilLast hi (y :: xs)

/-- The spacing pass after a value `prev`: the higher of two close values is pushed upward. -/
def spaceFrom (gap prev : Int) : List Int → List Int
  | [] => []
  | x :: xs =>
    let y := if x - prev < gap then (sat16 (prev + gap)).toInt else x
    y :: spaceFrom gap y xs

/-- The spacing pass. -/
def spaced (gap : Int) : List Int → List Int
  | [] => []
  | x :: xs => x :: spaceFrom gap x xs

/-- `Stab(w)` of R156. -/
def stab (c : Config) (w : List Int) : List Int :=
  let w := floorFirst c.lsfMin (w.insertionSort (· ≤ ·))
  if c.stabCeilLast then ceilLast c.lsfMax (spaced c.lsfGap w)
  else spaced c.lsfGap (ceilLast c.lsfMax w)

/-- The ten values of a register. -/
def Regs.ten (rs : Regs) (reg : Reg) : List Int := tabFrom (rs.int reg) 0 10

/-- The effect of `LSF.STAB` (R156). -/
def lsfStab (c : Config) (s : State) : State :=
  let w := stab c (s.regs.ten .qlsf)
  s.setAll .qlsf fun i => BitVec.ofInt 16 (w.getD i 0)

/-- `LSF.STAB` (R156). -/
def execLsfStab (s : State) : Result :=
  checked .ed [.all .qlsf] true s (.next (realised cfg .lsfStab s (lsfStab cfg s)))

/-! ## LSF.COS (R157) -/

/-- The effect of `LSF.COS` (R157). -/
def lsfCos (c : Config) (s : State) : State :=
  s.setAll .qlsp fun i => c.kCos (BitVec.ofInt 16 (s.regs.int .qlsf i))

/-- `LSF.COS` (R157). -/
def execLsfCos (s : State) : Result :=
  checked .ed [.all .qlsf] true s (.next (realised cfg .lsfCos s (lsfCos cfg s)))

/-! ## LSF.DEC (R158 to R160) -/

/-- The codeword of the indices L1, L2, L3 (R159), before the rearrangement. -/
def lsfCodeword (c : Config) (l1 l2 l3 : Nat) : List Int :=
  tabFrom (fun i =>
    let second := if i < 5 then c.tL2 l2 i else c.tL3 l3 i
    (sat16 ((c.tL1 l1 i).toInt + second.toInt)).toInt) 0 10

/-- The weight of the current codeword, `2^15 - Σ_k T_MAPRED[L0][k][i]` (R159). -/
def maWeight (c : Config) (l0 i : Nat) : Int :=
  2 ^ 15 - sumN (fun k => (c.tMaPred l0 k i).toInt) 4

/-- The contribution of the last four codewords, `Σ_k T_MAPRED[L0][k][i] · D.LSFHIST[k][i]` (R159). -/
def maPast (c : Config) (hist : Vec I16 40) (l0 i : Nat) : Int :=
  sumN (fun k => (c.tMaPred l0 k i).toInt * (hist.elD (10 * k + i) 0).toInt) 4

/-- The good-frame LSF before `Stab` (R159). -/
def maCombine (c : Config) (hist : Vec I16 40) (l0 : Nat) (cw : List Int) : List Int :=
  tabFrom (fun i =>
    (sat16 (shrR (maWeight c l0 i * cw.getD i 0 + maPast c hist l0 i) 15)).toInt) 0 10

/-- `LSF.DEC` on a good frame (R159). -/
def lsfDecGood (c : Config) (s : State) : State :=
  let l0 := s.regs.nat .prm 0
  let cw := c.lsfDecRearrange
    (lsfCodeword c (s.regs.nat .prm 1) (s.regs.nat .prm 2) (s.regs.nat .prm 3))
  let w := stab c (maCombine c s.dec.lsfHist l0 cw)
  let word (i : Nat) : I16 := BitVec.ofInt 16 (w.getD i 0)
  { s.setAll .qlsf word with
    dec := { s.dec with
      lsfHist := lsfHistPushed s.dec.lsfHist fun i => sat16 (cw.getD i 0)
      lsfLast := Vec.tab word
      l0Last := BitVec.ofNat 1 l0 } }

/-- The codeword the MA combination would have needed to produce `D.LSF_LAST` (R160); a zero weight is
floored to 1. -/
def backCodeword (c : Config) (d : DecState) (i : Nat) : I16 :=
  let l0 := d.l0Last.toNat
  sat16 (rnd (((d.lsfLast.elD i 0).toInt * 2 ^ 15 - maPast c d.lsfHist l0 i : Int)
    / floorDen (maWeight c l0 i)))

/-- `LSF.DEC` on an erased frame (R160). -/
def lsfDecErased (c : Config) (s : State) : State :=
  let s1 : State :=
    { s.setAll .qlsf (fun i => s.dec.lsfLast.elD i 0) with
      dec := { s.dec with lsfHist := lsfHistPushed s.dec.lsfHist (backCodeword c s.dec) } }
  s1.raiseFlag .conceal true

/-- The effect of `LSF.DEC` (R158). -/
def lsfDec (c : Config) (s : State) : State :=
  if s.bfi then lsfDecErased c s else lsfDecGood c s

/-- What `LSF.DEC` reads on the branch it takes (R158, R316). -/
def lsfDecNeeds (s : State) : List Need := if s.bfi then [] else [needPrm 0 4]

/-- The range check of `LSF.DEC`: none on an erased frame (R91, R316). -/
def lsfDecInRange (s : State) : Bool := s.bfi || (List.range 4).all s.regs.prmInRange

/-- `LSF.DEC` (R158). -/
def execLsfDec (s : State) : Result :=
  checked .d (lsfDecNeeds s) (lsfDecInRange s) s (.next (realised cfg .lsfDec s (lsfDec cfg s)))

end Sys2Proof.Machine
end

