-- ==== Sys2Proof/Machine/PostFilter.lean ====
section
/-! DEFINITION. The post-filter cascade (47_postfilter.md): PF.RES, PF.LT, PF.TILT, PF.ST, PF.AGC. -/

namespace Sys2Proof.Machine

/-! ## PF.RES (R291) -/

/-- The effect of `PF.RES sf` (R291). -/
def pfRes (c : Config) (sf : Subframe) (s : State) : State :=
  let num := bw (s.regs.aqAt sf) c.gammaN
  s.fillSubframe .pfres sf fun bs n => firSample c.qLp num (bs.at .speech) (sfBase sf + n)

/-- `PF.RES sf` (R291). -/
def execPfRes (sf : Subframe) (s : State) : Result :=
  checked .d [needAq sf] true s (.next (realised cfg (.pfRes sf) s (pfRes cfg sf s)))

/-! ## PF.LT (R292, R293) -/

/-- The lag window `(lo, hi)` around `T0` (R293). -/
def ltWindow (c : Config) (t0 : Int) : Int × Int :=
  if c.pfLtClamp ∧ 143 < t0 + 3 then (137, 143) else (t0 - 3, t0 + 3)

/-- `r(j)` of R293. -/
def ltSample (bs : Buffers) (sf : Subframe) (j : Int) : Int := bs.at .pfres (sfBase sf + j)

/-- The correlation of the residual with its copy delayed by `l` (R293). -/
def ltCorr (bs : Buffers) (sf : Subframe) (l : Int) : Int :=
  sumN (fun n => ltSample bs sf n * ltSample bs sf (n - l)) 40

/-- The energy of the residual delayed by `l` (R293): `e0` at 0, `ek` at `k`. -/
def ltEnergy (bs : Buffers) (sf : Subframe) (l : Int) : Int :=
  sumN (fun n => ltSample bs sf (n - l) ^ 2) 40

/-- The best lag `k` (R293): the lags ascending, first strictly greater. -/
def ltLag (c : Config) (bs : Buffers) (sf : Subframe) (t0 : Int) : Int :=
  let w := ltWindow c t0
  argMax (ltCorr bs sf) w.1 (tabFrom (fun i => w.1 + i) 0 (w.2 + 1 - w.1).toNat)

/-- The normalized gain condition fails at lag `k` (R293). -/
def ltPasses (c : Config) (bs : Buffers) (sf : Subframe) (k : Int) : Bool :=
  let cmax := ltCorr bs sf k
  decide (cmax ≤ 0 ∨
    ((cmax * cmax : Int) : Rat) < c.pfLtThresh * ((ltEnergy bs sf 0 * ltEnergy bs sf k : Int) : Rat))

/-- `g1` of R293. -/
def ltGain (c : Config) (bs : Buffers) (sf : Subframe) (k : Int) : Rat :=
  let gl : Rat := min 1 ((ltCorr bs sf k : Rat) / (ltEnergy bs sf k : Rat))
  c.gammaP * gl / (1 + c.gammaP * gl)

/-- Sample `n` of the long-term filter at lag `k` (R293). -/
def ltOut (c : Config) (bs : Buffers) (sf : Subframe) (k : Int) (n : Nat) : I16 :=
  if ltPasses c bs sf k then bs.word .pfres (sfBase sf + n)
  else
    let g1 := ltGain c bs sf k
    sat16 (rnd ((1 - g1) * (ltSample bs sf n : Rat) + g1 * (ltSample bs sf (n - k) : Rat)))

/-- The effect of `PF.LT sf` (R292). -/
def pfLt (c : Config) (sf : Subframe) (s : State) : State :=
  let k := ltLag c s.bufs sf (s.regs.int .t0 0)
  (s.fillSubframe .ltf sf fun _ n => ltOut c s.bufs sf k n).writeFlag .ltOff (ltPasses c s.bufs sf k)

/-- The lowest residual index the search reads is inside `PFRES` (R292, R61). -/
def ltInBounds (c : Config) (sf : Subframe) (t0 : Int) : Bool :=
  (Buf.pfres).inBounds (sfBase sf - (ltWindow c t0).2)

/-- `PF.LT sf` (R292). -/
def execPfLt (sf : Subframe) (s : State) : Result :=
  checked .d [.all .t0] s.regs.lagInRange s
    (require (ltInBounds cfg sf (s.regs.int .t0 0)) .bufferBounds
    (.next (realised cfg (.pfLt sf) s (pfLt cfg sf s))))

/-! ## PF.TILT (R294, R295) -/

/-- The 22-tap impulse response of the ratio filter (R295). -/
def ratioResponse (qLp : Nat) (num den : Nat → Int) : List I16 :=
  gen (fun h n =>
    let x : Int := if n = 0 then 2 ^ qLp else if n ≤ 10 then num (n - 1) else 0
    iirSample qLp den x (fun k => if 0 ≤ k then (h.getD k.toNat 0).toInt else 0) n) 22

/-- `rh_d = Σ h[n]·h[n+d]` over the 22 taps (R295). -/
def responseCorr (h : List I16) (d : Nat) : Int :=
  sumN (fun n => (h.getD n 0).toInt * (h.getD (n + d) 0).toInt) (22 - d)

/-- The impulse response of subframe `sf` (R295). -/
def tiltResponse (c : Config) (rs : Regs) (sf : Subframe) : List I16 :=
  ratioResponse c.qLp (bw (rs.aqAt sf) c.gammaN) (bw (rs.aqAt sf) c.gammaD)

/-- `K1` of R295. -/
def tiltK1 (h : List I16) : I16 := sat16 (rnd (2 ^ 15 * (responseCorr h 1 : Rat) / (responseCorr h 0 : Rat)))

/-- `TLT[n]` of R295. -/
def tiltOut (c : Config) (bs : Buffers) (sf : Subframe) (h : List I16) (n : Nat) : I16 :=
  let rh1 := responseCorr h 1
  if rh1 < 0 then bs.word .ltf (sfBase sf + n)
  else
    let mu : Rat := c.gammaT * rh1 / responseCorr h 0
    sat16 (rnd ((bs.at .ltf (sfBase sf + n) : Rat) - mu * (bs.at .ltf (sfBase sf + n - 1) : Rat)))

/-- The effect of `PF.TILT sf` (R294). -/
def pfTilt (c : Config) (sf : Subframe) (s : State) : State :=
  let h := tiltResponse c s.regs sf
  ((s.setAll .tlt (tiltOut c s.bufs sf h)).setAll .k1 fun _ => tiltK1 h).writeFlag .tiltOff
    (decide (responseCorr h 1 < 0))

/-- `PF.TILT sf` (R294). -/
def execPfTilt (sf : Subframe) (s : State) : Result :=
  checked .d [needAq sf] true s (.next (realised cfg (.pfTilt sf) s (pfTilt cfg sf s)))

/-! ## PF.ST (R296) -/

/-- The effect of `PF.ST sf` (R296). -/
def pfSt (c : Config) (sf : Subframe) (s : State) : State :=
  let den := bw (s.regs.aqAt sf) c.gammaD
  s.fillSubframe .stf sf fun bs n => iirSample c.qLp den (s.regs.int .tlt n) (bs.at .stf) (sfBase sf + n)

/-- `PF.ST sf` (R296). -/
def execPfSt (sf : Subframe) (s : State) : Result :=
  checked .d [needAq sf, .all .tlt] true s (.next (realised cfg (.pfSt sf) s (pfSt cfg sf s)))

/-! ## PF.AGC (R297, R298) -/

/-- The energy of a buffer over subframe `sf` (R298). -/
def sfEnergy (bs : Buffers) (b : Buf) (sf : Subframe) : Int :=
  sumN (fun n => bs.at b (sfBase sf + n) ^ 2) 40

/-- `G²` of R298: the ratio of the energies, 0 where the filtered energy is 0. -/
def agcSquare (bs : Buffers) (sf : Subframe) : Rat :=
  if sfEnergy bs .stf sf = 0 then 0
  else (sfEnergy bs .speech sf : Rat) / (sfEnergy bs .stf sf : Rat)

/-- One step of the gain recursion (R298): `sat16(rnd((0.9·val(g) + 0.1·G)·2^Q_AGC))`. -/
def agcStep (c : Config) (g2 : Rat) (g : I16) : I16 :=
  sat16Rnd (leAddSqrt (9 / 10 * (g.toInt : Rat)) (1 / 10 * 2 ^ c.qAgc) g2)

/-- The gain that scales each sample of the subframe (R298): one per subframe, or one per sample. -/
def agcGains (c : Config) (g2 : Rat) (prev : I16) : List I16 :=
  if c.agcPerSample then gen (fun g n => agcStep c g2 (if n = 0 then prev else g.getD (n - 1) 0)) 40
  else
    let g := agcStep c g2 prev
    tabFrom (fun _ => g) 0 40

/-- The effect of `PF.AGC sf` (R297). -/
def pfAgc (c : Config) (sf : Subframe) (s : State) : State :=
  let g := agcGains c (agcSquare s.bufs sf) s.dec.agcPrev
  { s.setFrom .pfout (40 * sf.idx) 40 (fun n =>
      sat16 (shrR (s.bufs.at .stf (sfBase sf + n) * (g.getD n 0).toInt) c.qAgc)) with
    dec := { s.dec with agcPrev := g.getD 39 0 } }

/-- `PF.AGC sf` (R297). -/
def execPfAgc (sf : Subframe) (s : State) : Result :=
  checked .d [] true s (.next (realised cfg (.pfAgc sf) s (pfAgc cfg sf s)))

end Sys2Proof.Machine
end

