-- ==== Sys2Proof/Machine/Dispatch.lean ====
section
/-! DEFINITION. One arm per command (R82): the direct call of its meaning. -/

namespace Sys2Proof.Machine

def exec (i : Instr) (s : State) : Host.Outcome State Fault Refusal :=
  match i with
  | .chInit role => Sys2Proof.Machine.execChInit role s
  | .chClose => Sys2Proof.Machine.execChClose s
  | .frmBegin bfi pe => Sys2Proof.Machine.execFrmBegin bfi pe s
  | .excMix sf => Sys2Proof.Machine.execExcMix sf s
  | .updFrm => Sys2Proof.Machine.execUpdFrm s
  | .lpWin => Sys2Proof.Machine.execLpWin s
  | .lpAcorr => Sys2Proof.Machine.execLpAcorr s
  | .lpLag => Sys2Proof.Machine.execLpLag s
  | .lpLev => Sys2Proof.Machine.execLpLev s
  | .lspRoot => Sys2Proof.Machine.execLspRoot s
  | .lspInterp => Sys2Proof.Machine.execLspInterp s
  | .lspTolp sf => Sys2Proof.Machine.execLspTolp sf s
  | .lsfStab => Sys2Proof.Machine.execLsfStab s
  | .lsfCos => Sys2Proof.Machine.execLsfCos s
  | .lsfDec => Sys2Proof.Machine.execLsfDec s
  | .pitCl sf => Sys2Proof.Machine.execPitCl sf s
  | .pitInterp sf => Sys2Proof.Machine.execPitInterp sf s
  | .pitDec sf => Sys2Proof.Machine.execPitDec sf s
  | .pitConv => Sys2Proof.Machine.execPitConv s
  | .fcbSearch sf => Sys2Proof.Machine.execFcbSearch sf s
  | .fcbDec sf => Sys2Proof.Machine.execFcbDec sf s
  | .fcbConv => Sys2Proof.Machine.execFcbConv s
  | .gainPred => Sys2Proof.Machine.execGainPred s
  | .gainQuant sf => Sys2Proof.Machine.execGainQuant sf s
  | .gainDec sf => Sys2Proof.Machine.execGainDec sf s
  | .fltHp => Sys2Proof.Machine.execFltHp s
  | .fltSyn sf => Sys2Proof.Machine.execFltSyn sf s
  | .fltRes sf => Sys2Proof.Machine.execFltRes sf s
  | .fltWgt sf => Sys2Proof.Machine.execFltWgt sf s
  | .pfRes sf => Sys2Proof.Machine.execPfRes sf s
  | .pfLt sf => Sys2Proof.Machine.execPfLt sf s
  | .pfTilt sf => Sys2Proof.Machine.execPfTilt sf s
  | .pfSt sf => Sys2Proof.Machine.execPfSt sf s
  | .pfAgc sf => Sys2Proof.Machine.execPfAgc sf s

end Sys2Proof.Machine
end

