-- ==== Sys2Proof/WellFormed.lean ====
section
/-! DEFINITION. Which terms of the syntax the host can really issue. -/

namespace Sys2Proof

/-- Every command term is well formed: its only fields are `sf`, `a` and `b`, one bit each (R80,
R81), and their types hold exactly the two values a bit has. The host-write checks below are the
ones that can fail. -/
def Instr.wellFormed (_ : Instr) : Bool := true

/-- The values an element of a register can hold (R10, R24): `PRM` is unsigned, every other
register signed. -/
def Reg.holds (reg : Reg) (v : Int) : Bool :=
  if reg = .prm then decide (0 ≤ v ∧ v < 2 ^ reg.width)
  else decide (-(2 ^ (reg.width - 1)) ≤ v ∧ v < 2 ^ (reg.width - 1))

/-- The elements a host write names exist (R24). -/
def HostWrite.inShape (w : HostWrite) : Bool := decide (w.first + w.vals.length ≤ w.reg.len)

/-- The values a host write carries are values of the register's element type (R10, R24). -/
def HostWrite.inType (w : HostWrite) : Bool := w.vals.all w.reg.holds

/-- A host write is well formed when its elements exist and its values are of their type. -/
def HostWrite.wellFormed (w : HostWrite) : Bool := w.inShape && w.inType

end Sys2Proof
end

