-- ==== Sys2Proof/Machine/Host.lean ====
section
/-! DEFINITION. What the host may do to a channel besides issuing commands (R21, R389): write operand
registers, and take and restore a snapshot of the channel state. -/

namespace Sys2Proof.Machine

/-- A host write (R21): the elements written become defined, nothing else changes. A write that names
elements the register does not have, or values not of its type, is none the spec knows. -/
def hostWrite (hw : HostWrite) (s : State) : Result :=
  if hw.wellFormed then
    .next (s.setFrom hw.reg hw.first hw.vals.length fun k => BitVec.ofInt hw.reg.width (hw.vals.getD k 0))
  else .refused .hostWriteMalformed

/-- The snapshot of a channel: its role, channel state and buffers (R21, R384). -/
def State.snapshot (s : State) : Snapshot := ⟨s.role, s.enc, s.dec, s.bufs⟩

/-- The buffers of a role taken from `saved`, the others kept (R60, R335). -/
def Buffers.restore (bs saved : Buffers) : Role → Buffers
  | .enc => { bs with sig := saved.sig, exc := saved.exc, wsp := saved.wsp }
  | .dec => { bs with
    exc := saved.exc, speech := saved.speech, pfres := saved.pfres, ltf := saved.ltf, stf := saved.stf }

/-- The channel state and buffers of the role taken from a snapshot. -/
def State.restored (s : State) (snap : Snapshot) : State :=
  match snap.role with
  | .enc => { s with enc := snap.enc, bufs := s.bufs.restore snap.bufs .enc }
  | .dec => { s with dec := snap.dec, bufs := s.bufs.restore snap.bufs .dec }

/-- A whole-state restore of a snapshot of a channel of the same role (R21, R384). The control and operand
registers are not part of it (R21). DESIGN CHOICE (notes/assumptions/4.md): any contents of the right role
are accepted, read earlier or not, because the quantizer changes `E.LSFHIST` this way (R28, R163). -/
def hostRestore (snap : Snapshot) (s : State) : Result :=
  if s.isOpen = true ∧ s.role = snap.role then .next (s.restored snap) else .refused .hostRestoreMismatch

end Sys2Proof.Machine
end

