-- ==== Sys2Proof/Machine/Serve.lean ====
section
/-! DEFINITION. How one action of the host is served: a command is decoded and executed, a register
write and a restore are done at once (R21, R69, R83). -/

namespace Sys2Proof.Machine

/-- A command word issued to the channel: check 1 of R358, then the command. -/
def command (w : BitVec 16) (s : State) : Result :=
  match decode w with
  | .error _ => .refused .reservedEncoding
  | .ok i => exec i s

/-- One action of the host. -/
def act (s : State) : HostAct → Result
  | .command w => command w s
  | .write hw => hostWrite hw s
  | .restore snap => hostRestore snap s

/-- The oldest action at the port served, with the port moved past it; with nothing at the port the
block does nothing and keeps all its state (R365). -/
def serveNext (s : State) : Result :=
  match s.port with
  | [] => .next s
  | a :: rest => act { s with port := rest } a

/-- The state after an action whatever comes of it: a refusal changes nothing and the host goes on with
its next action (R13, R354, R355). -/
def afterAct (s : State) (a : HostAct) : State :=
  match act s a with
  | .next t => t
  | .fault _ => s
  | .refused _ => s

/-- A whole sequence of host actions, refused ones passed over (R355). -/
def serve (s : State) (acts : List HostAct) : State := acts.foldl afterAct s

/-- The reason an action is refused for, if it is. -/
def refusal (s : State) (a : HostAct) : Option Refusal :=
  match act s a with
  | .refused r => some r
  | _ => none

/-- The host action that issues the command word held in the low `nbits` bits of `w`. The port carries
whole words (R64). -/
def wordAct (nbits w : Nat) : HostAct := .command (BitVec.ofNat 16 (w % 2 ^ nbits))

end Sys2Proof.Machine
end

