-- ==== Sys2Proof/Machine/Step.lean ====
section
/-! DEFINITION. One step of the machine: the oldest action at the port. -/

namespace Sys2Proof.Machine

/-- One step (R5, R69): the host's oldest action, executed to completion. -/
def step (s : State) : Host.Outcome State Fault Refusal := serveNext s

/-- The host about to issue the command word `w`: it stands first at the port. -/
def State.withFetchWord (s : State) (nbits w : Nat) : State := { s with port := wordAct nbits w :: s.port }

end Sys2Proof.Machine
end

