-- ==== Sys2Proof/Machine/Frame.lean ====
section
/-! DEFINITION. The 80-bit parameter frame (R88 to R90), which the host packs and unpacks, and the
host's parity check (R191). No command touches bytes. -/

namespace Sys2Proof.Machine

/-- Transmission position of the first bit of `PRM[i]` (R89). -/
def fieldStart (i : Nat) : Nat := sumN prmWidth i

/-- Position, from the least significant bit of the 80, of the last bit of `PRM[i]`. -/
def fieldLow (i : Nat) : Nat := 80 - fieldStart i - prmWidth i

/-- The 80-bit string of a parameter vector (R89): each parameter in its width, the first bit
transmitted most significant. -/
def packFrame (prm : Nat → Nat) : BitVec 80 := BitVec.ofNat 80 (sumN (fun i => prm i * 2 ^ fieldLow i) 15)

/-- Byte `k` of a frame (R89): the first of its bits as bit 7. -/
def frameByte (f : BitVec 80) (k : Nat) : BitVec 8 := f.extractLsb' (72 - 8 * k) 8

/-- The frame of ten bytes (R90). -/
def frameOfBytes (b : Nat → BitVec 8) : BitVec 80 :=
  BitVec.ofNat 80 (sumN (fun k => (b k).toNat * 2 ^ (72 - 8 * k)) 10)

/-- `PRM[i]` of a frame (R90). -/
def unpackField (f : BitVec 80) (i : Nat) : Nat := (f.extractLsb' (fieldLow i) (prmWidth i)).toNat

/-- A legal parameter vector: every value within its declared width (R88). -/
def legalPrm (prm : Nat → Nat) : Prop := ∀ i, i < 15 → prm i < 2 ^ prmWidth i

/-- The host transfer before a good frame of a decoder channel (R74): the frame unpacked into `PRM`. -/
def unpackWrite (f : BitVec 80) : HostWrite := ⟨.prm, 0, tabFrom (fun i => (unpackField f i : Int)) 0 15⟩

/-- The host transfer before a frame of an encoder channel (R74): 80 samples, oldest first. -/
def pcmWrite (x : Nat → I16) : HostWrite := ⟨.pcm, 0, tabFrom (fun n => (x n).toInt) 0 80⟩

/-- The frame the host packs from `PRM` after `UPD.FRM` (R74). DESIGN CHOICE (notes/assumptions/23.md):
where an element is undefined or wider than its field (R88) the spec gives no frame, and there is none. -/
def Regs.frame (rs : Regs) : Option (BitVec 80) :=
  if (List.range 15).all fun i => rs.definedAt .prm i && rs.prmInRange i then some (packFrame (rs.nat .prm))
  else none

/-- The `pe` field the host gives `FRM.BEGIN` on a good frame (R191): 0 when the parity bit agrees. -/
def hostPe (c : Config) (prm : Nat → Nat) : Nat := (c.parity (prm 4) + prm 5) % 2

end Sys2Proof.Machine
end

