-- ==== Sys2Proof/Safety.lean ====
section
/-! DEFINITION. What claims are stated in: the invariant of the machine's states, completion of a step,
values narrowed as R118 says, and what an instruction leaves unchanged. -/

namespace Sys2Proof.Machine

/-- The reserved bits 15:5 of `FCTL` and `FSTAT` read as 0 (R22, R23). -/
def State.reservedClear (s : State) : Prop := s.fctl.extractLsb' 5 11 = 0 ∧ s.fstat.extractLsb' 5 11 = 0

/-- `BFI` and `PE` are never set on an encoder channel (R337, R359). -/
def State.flagsOfRole (s : State) : Prop := s.role = .enc → s.bfi = false ∧ s.pe = false

/-- Only operations of the channel's role have set outcome flags (R23, R82). -/
def State.outcomesOfRole (s : State) : Prop :=
  match s.role with
  | .enc => s.flag .ltOff = false ∧ s.flag .tiltOff = false ∧ s.flag .conceal = false
  | .dec => s.flag .rootFail = false ∧ s.flag .r0Floor = false

/-- The state of the role the channel does not have stands at the values of R50: nothing of the other
role reaches it (R335). -/
def State.absentParked (s : State) : Prop :=
  match s.role with
  | .enc => s.dec = DecState.init cfg ∧ s.bufs.speech = Buffers.zero.speech
      ∧ s.bufs.pfres = Buffers.zero.pfres ∧ s.bufs.ltf = Buffers.zero.ltf ∧ s.bufs.stf = Buffers.zero.stf
  | .dec => s.enc = EncState.init cfg ∧ s.bufs.sig = Buffers.zero.sig ∧ s.bufs.wsp = Buffers.zero.wsp

/-- The bounded gain stays within [`BETA_MIN`, `BETA_MAX`] (R222, R246). -/
def DecState.gainBounded (d : DecState) : Prop := 3277 ≤ d.gpBnd.toInt ∧ d.gpBnd.toInt ≤ 13107

/-- Every snapshot the host is about to restore holds a bounded gain, as one it read earlier does. -/
def State.snapshotsBounded (s : State) : Prop := ∀ snap, .restore snap ∈ s.port → snap.dec.gainBounded

/-- The invariant of the machine: what every step keeps. Of a closed channel's state only the reserved
bits and `FCTL.OPEN` are specified (R51). -/
structure State.Inv (s : State) : Prop where
  reserved : s.reservedClear
  flags : s.isOpen = true → s.flagsOfRole
  outcomes : s.isOpen = true → s.outcomesOfRole
  parked : s.isOpen = true → s.absentParked
  bounded : s.isOpen = true → s.dec.gainBounded
  snapshots : s.snapshotsBounded

/-- The next step completes: neither a fault, of which there is none (R350), nor a refusal (R13). -/
def State.completes (s : State) : Prop := ∃ t, step s = .next t

/-! ## Values -/

/-- An exact value rounded and narrowed to an int16, as an integer: `sat16(rnd(x))` (R111, R113, R118). -/
def narrow16 (x : Rat) : Int := min 32767 (max (-32768) ⌊x + 1 / 2⌋)

/-- The same for an int32 (R112). -/
def narrow32 (x : Rat) : Int := min 2147483647 (max (-2147483648) ⌊x + 1 / 2⌋)

/-- Element `i` of a signed register is defined and holds `v` (R14). -/
def State.holds (s : State) (reg : Reg) (i : Nat) (v : Int) : Prop :=
  s.regs.definedAt reg i = true ∧ s.regs.int reg i = v

/-- `PRM[i]` is defined and holds `v` (R14, R24). -/
def State.prmHolds (s : State) (i v : Nat) : Prop :=
  s.regs.definedAt .prm i = true ∧ s.regs.nat .prm i = v

/-! ## Formulas of the rules that several statements share -/

/-- `tmin` of `Window1(lag)` with its defaults (R181); `tmax` is 9 more. -/
def derivedLow (lag : Int) : Int := if 139 < lag then 134 else max 20 (lag - 5)

/-- `CFG.parity(P1)` of R191: odd parity over bits 7..2. -/
def oddParity (p1 : Nat) : Nat := (1 + ∑ b ∈ Finset.Ico 2 8, p1 / 2 ^ b % 2) % 2

/-- `v` satisfies the equations of R190 for subframe `sf`, lag `lag` and fraction `f`: a source index
inside the subframe is the vector itself. -/
def interpolated (s : State) (sf : Subframe) (lag f : Int) (v : Nat → Int) : Prop :=
  let ph : Nat := if f = 0 then 0 else if f = 1 then 2 else 1
  let base : Int := if f = 1 then -lag - 1 else -lag
  let src (j : Int) : Int := if j < 0 then s.bufs.at .exc (sfBase sf + j) else v j.toNat
  ∀ n < 40, v n = narrow16 (((
      ∑ i ∈ Finset.range 10, src (base + n - i) * (cfg.tInterp (ph + 3 * i)).toInt
      + ∑ i ∈ Finset.range 10, src (base + n + 1 + i) * (cfg.tInterp (3 - ph + 3 * i)).toInt : Int)
      : Rat) / 2 ^ cfg.qWin)

/-- `x` is the first of the greatest `score` in visiting order (R121). -/
def firstMax {α : Type} (score : α → Int) (l : List α) (x : α) : Prop :=
  ∃ before after, l = before ++ x :: after
    ∧ (∀ y ∈ before, score y < score x) ∧ ∀ y ∈ after, score y ≤ score x

/-- `x` is the first of the greatest ratio `corr² / energy` in visiting order, by cross-multiplication
(R215), among the candidates of positive energy. -/
def firstBest {α : Type} (corr energy : α → Int) (l : List α) (x : α) : Prop :=
  ∃ before after, l = before ++ x :: after ∧ 0 < energy x
    ∧ (∀ y ∈ before, 0 < energy y → corr y * corr y * energy x < corr x * corr x * energy y)
    ∧ ∀ y ∈ after, corr y * corr y * energy x ≤ corr x * corr x * energy y

/-! ## Frames: what an instruction leaves unchanged from `s` to `t` -/

/-- Every register element outside `written` keeps value and mark. -/
def regsKept (written : Reg → Nat → Prop) (s t : State) : Prop :=
  ∀ reg i, ¬ written reg i → (t.regs.get reg).elD i none = (s.regs.get reg).elD i none

/-- All of the registers listed are written. -/
def wholly (l : List Reg) (reg : Reg) (_ : Nat) : Prop := reg ∈ l

/-- Elements `first .. first + count - 1` of one register are written. -/
def part (reg' : Reg) (first count : Nat) (reg : Reg) (i : Nat) : Prop :=
  reg = reg' ∧ first ≤ i ∧ i < first + count

/-- Every sample outside `written` reads as before. -/
def bufsKept (written : Buf → Int → Prop) (s t : State) : Prop :=
  ∀ b i, ¬ written b i → t.bufs.read b i = s.bufs.read b i

/-- No sample is written. -/
def nowhere (_ : Buf) (_ : Int) : Prop := False

/-- The 40 samples of subframe `sf` of one buffer are written. -/
def subframeOf (b' : Buf) (sf : Subframe) (b : Buf) (i : Int) : Prop :=
  b = b' ∧ sfBase sf ≤ i ∧ i < sfBase sf + 40

/-- The model's own fields, the port and the count of closed channels, are unchanged. -/
def modelKept (s t : State) : Prop := t.port = s.port ∧ t.closes = s.closes

/-- `FCTL`, `FSTAT` and the model's own fields are unchanged. -/
def controlKept (s t : State) : Prop := t.fctl = s.fctl ∧ t.fstat = s.fstat ∧ modelKept s t

/-- `FCTL` and the model's own fields are unchanged, and so is every bit of `FSTAT` but the one of a
flag. -/
def controlKeptBut (f : StatFlag) (s t : State) : Prop :=
  t.fctl = s.fctl ∧ modelKept s t ∧ ∀ k, k ≠ f.bit → t.fstat.getLsbD k = s.fstat.getLsbD k

/-- The channel state of both roles is unchanged. -/
def channelKept (s t : State) : Prop := t.enc = s.enc ∧ t.dec = s.dec

/-! ## The role sets of R82 -/

/-- The column "role" of the opcode map; none for `CH.INIT`. -/
def roleSetOf : Instr → Option RoleSet
  | .chInit _ => none
  | .chClose | .frmBegin _ _ | .excMix _ | .updFrm => some .ed
  | .lpWin | .lpAcorr | .lpLag | .lpLev => some .e
  | .lspRoot => some .e
  | .lspInterp | .lspTolp _ | .lsfStab | .lsfCos => some .ed
  | .lsfDec => some .d
  | .pitCl _ | .pitConv => some .e
  | .pitInterp _ => some .ed
  | .pitDec _ => some .d
  | .fcbSearch _ => some .e
  | .fcbDec _ => some .d
  | .fcbConv => some .ed
  | .gainPred => some .ed
  | .gainQuant _ => some .e
  | .gainDec _ => some .d
  | .fltHp => some .ed
  | .fltSyn _ => some .d
  | .fltRes _ | .fltWgt _ => some .e
  | .pfRes _ | .pfLt _ | .pfTilt _ | .pfSt _ | .pfAgc _ => some .d

/-- Every command but `CH.INIT`, `CH.CLOSE` and `FRM.BEGIN` needs an open frame (R358, check 4). -/
def frameLevel : Instr → Bool
  | .chInit _ | .chClose | .frmBegin _ _ => false
  | .excMix _ | .updFrm | .lpWin | .lpAcorr | .lpLag | .lpLev | .lspRoot | .lspInterp | .lspTolp _
  | .lsfStab | .lsfCos | .lsfDec | .pitCl _ | .pitInterp _ | .pitDec _ | .pitConv | .fcbSearch _
  | .fcbDec _ | .fcbConv | .gainPred | .gainQuant _ | .gainDec _ | .fltHp | .fltSyn _ | .fltRes _
  | .fltWgt _ | .pfRes _ | .pfLt _ | .pfTilt _ | .pfSt _ | .pfAgc _ => true

/-! ## The operands and ranges of the operation rules (R358, checks 5 and 6) -/

/-- The line "Operands" of each rule: the register elements a command reads, on the branch it takes in
`s`. Of `PIT.DEC sf=1` as R192 has it (notes/assumptions/22.md). -/
def operandsOf (i : Instr) (s : State) : List Need :=
  match i with
  | .chInit _ | .chClose | .frmBegin _ _ | .lpWin | .pfAgc _ => []
  | .excMix _ => [⟨.gp, 0, 1⟩, ⟨.gc, 0, 1⟩, ⟨.acv, 0, 40⟩, ⟨.fcv, 0, 40⟩]
  | .updFrm | .lspInterp => [⟨.qlsp, 0, 10⟩]
  | .lpAcorr => [⟨.wsig, 0, 240⟩]
  | .lpLag => [⟨.r, 0, 11⟩]
  | .lpLev => [⟨.rl, 0, 11⟩]
  | .lspRoot => [⟨.a, 0, 10⟩]
  | .lspTolp .first => [⟨.ilsp, 0, 10⟩]
  | .lspTolp .second => [⟨.qlsp, 0, 10⟩]
  | .lsfStab | .lsfCos => [⟨.qlsf, 0, 10⟩]
  | .lsfDec => if s.bfi then [] else [⟨.prm, 0, 4⟩]
  | .pitCl .first => [⟨.x, 0, 40⟩, ⟨.h, 0, 40⟩, ⟨.tol, 0, 1⟩]
  | .pitCl .second => [⟨.x, 0, 40⟩, ⟨.h, 0, 40⟩, ⟨.t0min, 0, 1⟩, ⟨.t0max, 0, 1⟩]
  | .pitInterp _ => [⟨.t0, 0, 1⟩, ⟨.t0f, 0, 1⟩]
  | .pitDec .first => if s.bfi || s.pe then [] else [⟨.prm, 4, 1⟩]
  | .pitDec .second => if s.bfi then [] else [⟨.prm, 10, 1⟩, ⟨.t0min, 0, 1⟩, ⟨.t0max, 0, 1⟩]
  | .pitConv => [⟨.acv, 0, 40⟩, ⟨.h, 0, 40⟩]
  | .fcbSearch _ => [⟨.x, 0, 40⟩, ⟨.y, 0, 40⟩, ⟨.gpu, 0, 1⟩, ⟨.h, 0, 40⟩, ⟨.t0, 0, 1⟩]
  | .fcbDec sf => if s.bfi then [⟨.t0, 0, 1⟩] else [⟨.t0, 0, 1⟩, ⟨.prm, 6 + 5 * sf.idx, 2⟩]
  | .fcbConv => [⟨.fcv, 0, 40⟩, ⟨.h, 0, 40⟩]
  | .gainPred => [⟨.fcv, 0, 40⟩]
  | .gainQuant _ => [⟨.x, 0, 40⟩, ⟨.y, 0, 40⟩, ⟨.z, 0, 40⟩, ⟨.gcp, 0, 1⟩]
  | .gainDec sf => if s.bfi then [] else [⟨.gcp, 0, 1⟩, ⟨.prm, 8 + 5 * sf.idx, 2⟩]
  | .fltHp => match s.role with
    | .enc => [⟨.pcm, 0, 80⟩]
    | .dec => [⟨.pfout, 0, 80⟩]
  | .fltSyn sf | .fltRes sf | .fltWgt sf | .pfRes sf | .pfTilt sf => [⟨.aq, 10 * sf.idx, 10⟩]
  | .pfLt _ => [⟨.t0, 0, 1⟩]
  | .pfSt sf => [⟨.aq, 10 * sf.idx, 10⟩, ⟨.tlt, 0, 40⟩]

/-- The ranges of the lines "Refused" (R91, R180, R189, R192, R211, R219, R246, R292): what check 6 asks of
the operands a command reads on the branch it takes in `s`. -/
def operandsInRange (i : Instr) (s : State) : Prop :=
  let lagOk : Prop := 19 ≤ s.regs.int .t0 0 ∧ s.regs.int .t0 0 ≤ 144
  let prm (k : Nat) : Nat := s.regs.nat .prm k
  match i with
  | .lsfDec => s.bfi = true ∨ prm 0 ≤ 1 ∧ prm 1 ≤ 127 ∧ prm 2 ≤ 31 ∧ prm 3 ≤ 31
  | .pitCl .second => 20 ≤ s.regs.int .t0min 0 ∧ s.regs.int .t0max 0 = s.regs.int .t0min 0 + 9
      ∧ s.regs.int .t0max 0 ≤ 143
  | .pitInterp _ => lagOk ∧ -1 ≤ s.regs.int .t0f 0 ∧ s.regs.int .t0f 0 ≤ 1
  | .pitDec .first => (s.bfi || s.pe) = true ∨ prm 4 ≤ 255
  | .pitDec .second => s.bfi = true ∨ prm 10 ≤ 31
  | .fcbSearch _ | .pfLt _ => lagOk
  | .fcbDec sf => lagOk ∧ (s.bfi = true ∨ prm (6 + 5 * sf.idx) ≤ 8191 ∧ prm (7 + 5 * sf.idx) ≤ 15)
  | .gainDec sf => s.bfi = true ∨ prm (8 + 5 * sf.idx) ≤ 7 ∧ prm (9 + 5 * sf.idx) ≤ 15
  | .chInit _ | .chClose | .frmBegin _ _ | .excMix _ | .updFrm | .lpWin | .lpAcorr | .lpLag | .lpLev
  | .lspRoot | .lspInterp | .lspTolp _ | .lsfStab | .lsfCos | .pitCl .first | .pitConv | .fcbConv
  | .gainPred | .gainQuant _ | .fltHp | .fltSyn _ | .fltRes _ | .fltWgt _ | .pfRes _ | .pfTilt _ | .pfSt _
  | .pfAgc _ => True

end Sys2Proof.Machine
end

