-- ==== Sys2Proof/Certificates/Slice0/Obligations.lean ====
section
/-! DEFINITION. The statements for the provers. `s` is any state, reached or not; the hypotheses are on
the state and the operands alone. `State.ready` is checks 2 to 5 of R358 for the operands a command
reads; `cfg` is the configuration of R8 with its defaults (notes/assumptions/6.md) over tables that no
proof can see (notes/assumptions/5.md). -/

open Sys2Proof Sys2Proof.Machine

/-! ## Encoding -/

/-- R83: decoding is exact. A word is an instruction iff it is that instruction's encoding, so every
other word is reserved (R84) and no bit of a word is dropped. -/
def Obligations.DecodeIffEncode : Prop :=
  ∀ (w : BitVec 16) (i : Instr), decode w = .ok i ↔ w = encode i

/-- R80, R82: words written out from the opcode map decode to the commands they stand for. -/
def Obligations.WordsDecode : Prop :=
  decode 0x0500 = .ok (.chInit .dec) ∧ decode 0x0D80 = .ok (.frmBegin true true)
    ∧ decode 0x2C00 = .ok .lpLev ∧ decode 0x4A00 = .ok (.lspTolp .second)
    ∧ decode 0x6A00 = .ok (.pitDec .second) ∧ decode 0x8000 = .ok (.fcbSearch .first)
    ∧ decode 0xAA00 = .ok (.gainDec .second) ∧ decode 0xC000 = .ok .fltHp
    ∧ decode 0xF200 = .ok (.pfAgc .second)
    ∧ decode 0x2200 = .error .mustBeZero ∧ decode 0x0000 = .error .unassignedOp

/-- R5, R69, R84: a step serves the oldest action of the port. A word that decodes runs its instruction
with the port moved past it; a word that is no instruction's encoding is refused `reserved-encoding`;
with nothing at the port nothing changes (R365; the port is the model's own, notes/assumptions/1.md and
3.md). -/
def Obligations.StepServesPort : Prop :=
  ∀ (s : State) (w : BitVec 16) (rest : List HostAct),
    (∀ i, s.port = .command w :: rest → decode w = .ok i → step s = exec i { s with port := rest })
    ∧ (s.port = .command w :: rest → (∀ i, w ≠ encode i) → step s = .refused .reservedEncoding)
    ∧ (s.port = [] → step s = .next s)

/-! ## Control (49_control.md) -/

/-- R335, R50: on a closed channel `CH.INIT` completes and every piece of the role's state has its value
of R50, whatever it was; so have the buffers of the absent role (notes/assumptions/11.md). On an open
channel it is refused `channel-open`. The values are the defaults of R50 (notes/assumptions/6.md). -/
def Obligations.ChInitResets : Prop :=
  ∀ (s : State) (role : Role),
    (s.isOpen = true → exec (.chInit role) s = .refused .channelOpen)
    ∧ (s.isOpen = false → ∃ t, exec (.chInit role) s = .next t ∧ modelKept s t
      ∧ t.fctl = (match role with | .enc => 0x0001 | .dec => 0x0003) ∧ t.fstat = 0
      ∧ (∀ reg i, t.regs.definedAt reg i = false)
      ∧ (∀ b i, b.lo ≤ i → i ≤ b.hi → t.bufs.read b i = some 0)
      ∧ (role = .enc →
          t.enc.lspPrev.toList.map BitVec.toInt
            = [30000, 26000, 21000, 15000, 8000, 0, -8000, -15000, -21000, -26000]
          ∧ t.enc.qlspPrev = t.enc.lspPrev
          ∧ (∀ k < 4, ∀ i < 10, (t.enc.lsfHist.elD (10 * k + i) 0).toInt
              = [2339, 4679, 7018, 9358, 11698, 14037, 16377, 18717, 21056, 23396].getD i 0)
          ∧ t.enc.gpeHist.toList.map BitVec.toInt = [-14336, -14336, -14336, -14336]
          ∧ t.enc.gpLast.toInt = 3277 ∧ t.enc.hpMem.toList = [0, 0, 0, 0])
      ∧ (role = .dec →
          t.dec.qlspPrev.toList.map BitVec.toInt
            = [30000, 26000, 21000, 15000, 8000, 0, -8000, -15000, -21000, -26000]
          ∧ (∀ k < 4, ∀ i < 10, (t.dec.lsfHist.elD (10 * k + i) 0).toInt
              = [2339, 4679, 7018, 9358, 11698, 14037, 16377, 18717, 21056, 23396].getD i 0)
          ∧ t.dec.lsfLast.toList.map BitVec.toInt
            = [2339, 4679, 7018, 9358, 11698, 14037, 16377, 18717, 21056, 23396]
          ∧ t.dec.l0Last = 0 ∧ t.dec.pitchLast.toInt = 60 ∧ t.dec.gpRaw = 0
          ∧ t.dec.gpBnd.toInt = 3277 ∧ t.dec.gc = 0
          ∧ t.dec.gpeHist.toList.map BitVec.toInt = [-14336, -14336, -14336, -14336]
          ∧ t.dec.agcPrev.toInt = 4096 ∧ t.dec.hpMem.toList = [0, 0, 0, 0]
          ∧ t.dec.seed.toNat = 21845))

/-- R336, R51: `CH.CLOSE` completes on an open channel, in a frame or not, and clears `FCTL.OPEN`. What
else the closed channel holds is left unspecified and rests on the free values of
notes/assumptions/12.md alone, on nothing the channel held; the host's port is untouched. -/
def Obligations.ChCloseClears : Prop :=
  ∀ s : State,
    (s.isOpen = false → exec .chClose s = .refused .channelClosed)
    ∧ (s.isOpen = true → ∃ t, exec .chClose s = .next t ∧ t.isOpen = false
      ∧ t.port = s.port ∧ t.closes = s.closes + 1
      ∧ ∀ s' : State, s'.isOpen = true → s'.closes = s.closes → s'.port = s.port →
          exec .chClose s' = .next t)

/-- R337: `FRM.BEGIN` latches the two flags, opens the bracket, clears `FSTAT`, marks every operand
register undefined but the frame's input, and changes nothing else; or is refused, in the order given. -/
def Obligations.FrmBeginOpensFrame : Prop :=
  ∀ (s : State) (bfi pe : Bool),
    (s.isOpen = false → exec (.frmBegin bfi pe) s = .refused .channelClosed)
    ∧ (s.isOpen = true → s.inFrame = true → exec (.frmBegin bfi pe) s = .refused .inFrame)
    ∧ (s.isOpen = true → s.inFrame = false → s.role = .enc → (bfi = true ∨ pe = true) →
        exec (.frmBegin bfi pe) s = .refused .parameterRange)
    ∧ (s.isOpen = true → s.inFrame = false → (s.role = .enc → bfi = false ∧ pe = false) →
        ∃ t, exec (.frmBegin bfi pe) s = .next t
        ∧ t.bfi = bfi ∧ t.pe = pe ∧ t.inFrame = true ∧ t.fstat = 0 ∧ modelKept s t
        ∧ (∀ k, k ≠ 2 → k ≠ 3 → k ≠ 4 → t.fctl.getLsbD k = s.fctl.getLsbD k)
        ∧ (∀ reg i, (t.regs.get reg).elD i none
            = if reg = (match s.role with | .enc => Reg.pcm | .dec => Reg.prm)
              then (s.regs.get reg).elD i none else none)
        ∧ channelKept s t ∧ bufsKept nowhere s t)

/-- R338: the excitation of a subframe, and the encoder's last quantized adaptive-codebook gain. -/
def Obligations.ExcMixBuildsExcitation : Prop :=
  ∀ (s : State) (sf : Subframe), s.ready .ed [.all .gp, .all .gc, .all .acv, .all .fcv] = true →
    ∃ t, exec (.excMix sf) s = .next t
    ∧ (∀ n : Nat, n < 40 → t.bufs.at .exc (sfBase sf + n)
        = narrow16 ((s.regs.int .gp 0 * s.regs.int .acv n : Rat) / 2 ^ cfg.qGp
            + (s.regs.int .gc 0 * s.regs.int .fcv n : Rat) / 2 ^ (cfg.qGc + cfg.qFcv)))
    ∧ (s.role = .enc → t.enc = { s.enc with gpLast := t.enc.gpLast }
        ∧ t.enc.gpLast.toInt = s.regs.int .gp 0)
    ∧ (s.role = .dec → t.enc = s.enc) ∧ t.dec = s.dec
    ∧ controlKept s t ∧ regsKept (wholly []) s t ∧ bufsKept (subframeOf .exc sf) s t

/-- R339: `UPD.FRM` shifts the history of every buffer of the role but `SIG`, stores the quantized LSP
for the next frame, clears `INFRAME`, and changes nothing else. -/
def Obligations.UpdFrmShiftsHistory : Prop :=
  ∀ s : State, s.ready .ed [.all .qlsp] = true →
    let bufs : List Buf := match s.role with
      | .enc => [.exc, .wsp]
      | .dec => [.exc, .speech, .pfres, .ltf, .stf]
    ∃ t, exec .updFrm s = .next t
    ∧ (∀ b ∈ bufs, ∀ i, b.lo ≤ i → i < 0 → t.bufs.read b i = s.bufs.read b (i + 80))
    ∧ bufsKept (fun b i => b ∈ bufs ∧ i < 0) s t
    ∧ (∀ i < 10, t.qlspPrev i = s.regs.int .qlsp i)
    ∧ (s.role = .enc → t.enc = { s.enc with qlspPrev := t.enc.qlspPrev } ∧ t.dec = s.dec)
    ∧ (s.role = .dec → t.dec = { s.dec with qlspPrev := t.dec.qlspPrev } ∧ t.enc = s.enc)
    ∧ t.inFrame = false ∧ (∀ k, k ≠ 4 → t.fctl.getLsbD k = s.fctl.getLsbD k)
    ∧ t.fstat = s.fstat ∧ modelKept s t ∧ regsKept (wholly []) s t

/-! ## LP analysis (41_lp_analysis.md) -/

/-- R130: the windowed signal. -/
def Obligations.LpWinWindows : Prop :=
  ∀ s : State, s.ready .e [] = true →
    ∃ t, exec .lpWin s = .next t
    ∧ (∀ i < 240, t.holds .wsig i
        (narrow16 ((s.bufs.at .sig i * (cfg.tWin i).toInt : Rat) / 2 ^ cfg.qWin)))
    ∧ controlKept s t ∧ channelKept s t ∧ regsKept (wholly [.wsig]) s t ∧ bufsKept nowhere s t

/-- R131 with the default switch of R132: the eleven exact sums, the lag-0 sum floored to 1, all shifted
right by the least count that brings the lag-0 value below 2^31; the words written are those values, with
no narrowing. -/
def Obligations.LpAcorrAutocorrelates : Prop :=
  ∀ s : State, s.ready .e [.all .wsig] = true →
    let acc (k : Nat) : Int :=
      ∑ j ∈ Finset.range (240 - k), s.regs.int .wsig (j + k) * s.regs.int .wsig j
    let acc0 : Int := if acc 0 = 0 then 1 else acc 0
    ∃ t, exec .lpAcorr s = .next t
    ∧ (∃ n : Nat, acc0 < 2 ^ (31 + n) ∧ (∀ m < n, 2 ^ (31 + m) ≤ acc0)
        ∧ t.holds .rscale 0 n ∧ t.holds .r 0 ⌊(acc0 : Rat) / 2 ^ n⌋
        ∧ ∀ k, 1 ≤ k → k ≤ 10 → t.holds .r k ⌊(acc k : Rat) / 2 ^ n⌋)
    ∧ t.flag .r0Floor = (s.flag .r0Floor || decide (acc 0 = 0)) ∧ controlKeptBut .r0Floor s t
    ∧ channelKept s t ∧ regsKept (wholly [.r, .rscale]) s t ∧ bufsKept nowhere s t

/-- R139 (a): after `LP.ACORR` the lag-0 coefficient is at least 1 and bounds every other, the floors of
the rescaling included. -/
def Obligations.AcorrLagZeroDominates : Prop :=
  ∀ s t : State, s.ready .e [.all .wsig] = true → exec .lpAcorr s = .next t →
    1 ≤ t.regs.int .r 0 ∧ ∀ k ≤ 10, |t.regs.int .r k| ≤ t.regs.int .r 0

/-- R133: the lag-windowed autocorrelation, `R` left unchanged. R133 derives that every product fits an
int32; the one host-written value for which it does not, `R[k]` = -2^31 under an entry of -2^15, is refused
`overflow32` (DEDUCED from R112, notes/assumptions/14.md). -/
def Obligations.LpLagWindows : Prop :=
  ∀ s : State, s.ready .e [.all .r] = true →
    let rl (k : Nat) : Int :=
      ⌊(s.regs.int .r k * (cfg.tLagWin k).toInt : Rat) / 2 ^ cfg.qWin + 1 / 2⌋
    let fits : Prop := ∀ k, 1 ≤ k → k ≤ 10 → rl k ≤ 2147483647
    (exec .lpLag s = .refused .overflow32 ↔ ¬fits)
    ∧ (fits → ∃ t, exec .lpLag s = .next t
        ∧ t.holds .rl 0 (s.regs.int .r 0) ∧ (∀ k, 1 ≤ k → k ≤ 10 → t.holds .rl k (rl k))
        ∧ controlKept s t ∧ channelKept s t ∧ regsKept (wholly [.rl]) s t ∧ bufsKept nowhere s t)

/-- R135: the Levinson-Durbin recursion, for the sequences `k_i`, `a^(i)_j`, `E_i` that satisfy its
equations. Where every `E_i` is non-negative the command completes with the three outputs rounded once;
otherwise it is refused `levinson-energy` (R134). -/
def Obligations.LpLevRecursion : Prop :=
  ∀ (s : State) (k E : Nat → Rat) (a : Nat → Nat → Rat), s.ready .e [.all .rl] = true →
    let rl (i : Nat) : Rat := s.regs.int .rl i
    E 0 = (if rl 0 = 0 then 1 else rl 0) →
    (∀ i, 1 ≤ i → i ≤ 10 →
      k i = -(rl i + ∑ j ∈ Finset.Ico 1 i, a (i - 1) j * rl (i - j))
          / (if E (i - 1) = 0 then 1 else E (i - 1))
      ∧ a i i = k i ∧ (∀ j, 1 ≤ j → j < i → a i j = a (i - 1) j + k i * a (i - 1) (i - j))
      ∧ E i = (1 - k i * k i) * E (i - 1)) →
    ((rl 0 < 0 ∨ ∃ i, 1 ≤ i ∧ i ≤ 10 ∧ E i < 0) → exec .lpLev s = .refused .levinsonEnergy)
    ∧ (0 ≤ rl 0 → (∀ i, 1 ≤ i → i ≤ 10 → 0 ≤ E i) →
        ∃ t, exec .lpLev s = .next t
        ∧ (∀ i, 1 ≤ i → i ≤ 10 → t.holds .rc (i - 1) (narrow32 (k i * 2 ^ cfg.qRc)))
        ∧ (∀ j, 1 ≤ j → j ≤ 10 → t.holds .a (j - 1) (narrow16 (a 10 j * 2 ^ cfg.qLp)))
        ∧ t.holds .eres 0 ⌊E 10 + 1 / 2⌋
        ∧ t.flag .r0Floor = (s.flag .r0Floor || decide (rl 0 = 0)) ∧ controlKeptBut .r0Floor s t
        ∧ channelKept s t ∧ regsKept (wholly [.rc, .a, .eres]) s t ∧ bufsKept nowhere s t)

/-- R139 (c): if `LP.LEV` completes, the final residual energy is between 0 and `RL[0]`, or at most 1
where the floor applied. -/
def Obligations.LevResidualBounded : Prop :=
  ∀ s t : State, s.ready .e [.all .rl] = true → exec .lpLev s = .next t →
    0 ≤ t.regs.int .eres 0 ∧ t.regs.int .eres 0 ≤ max 1 (s.regs.int .rl 0)

/-! ## LSP (42_lsp_conversion.md) -/

/-- R150, R151, R153: `LSP.ROOT`. `f1`, `f2` are the polynomials of R151; `x j` is the abscissa the walk
stands at after grid point `j`, `n j` the roots found by then, `root k` root `k`. The polynomial walked
alternates, a sign change is halved twice and interpolated (R152 evaluates, `ChebyshevIsCosineSum`). Where
ten roots are found they are written, else the previous frame's LSP with `ROOTFAIL` set; what was written is
stored for the next frame. -/
def Obligations.LspRootOrFallback : Prop :=
  ∀ s : State, s.ready .e [.all .a] = true →
    let a (i : Nat) : Rat := (s.regs.int .a (i - 1) : Rat) / 2 ^ cfg.qLp
    let g (j : Nat) : Int := (cfg.tCosGrid j).toInt
    ∃ (t : State) (f1 f2 : Nat → Rat) (x : Nat → Int) (n : Nat → Nat) (root : Nat → Int),
    f1 0 = 1 ∧ f2 0 = 1
    ∧ (∀ i < 5, f1 (i + 1) = a (i + 1) + a (10 - i) - f1 i ∧ f2 (i + 1) = a (i + 1) - a (10 - i) + f2 i)
    ∧ (let value (k : Nat) (y : Int) : Rat :=
        let f := if k % 2 = 0 then f1 else f2
        chebyshev [f 0, f 1, f 2, f 3, f 4, f 5] ((y : Rat) / 2 ^ cfg.qLsp)
      let halve (k : Nat) (b : Int × Int) : Int × Int :=
        let m := (b.1 + b.2) / 2
        if value k b.1 < 0 ↔ value k m < 0 then (m, b.2) else (b.1, m)
      x 0 = g 0 ∧ n 0 = 0 ∧ ∀ j < 50,
        if n j = 10 then n (j + 1) = 10
        else if value (n j) (x j) < 0 ↔ value (n j) (g (j + 1)) < 0 then
          n (j + 1) = n j ∧ x (j + 1) = g (j + 1)
        else
          let b := halve (n j) (halve (n j) (x j, g (j + 1)))
          let yl := value (n j) b.1
          let yh := value (n j) b.2
          n (j + 1) = n j + 1 ∧ root (n j) = x (j + 1)
            ∧ x (j + 1) = narrow16 ((b.1 : Rat) - yl * ((b.2 : Rat) - b.1) / (yh - yl)))
    ∧ exec .lspRoot s = .next t
    ∧ (∀ i < 10, t.holds .lsp i (if n 50 = 10 then root i else (s.enc.lspPrev.elD i 0).toInt))
    ∧ (∀ i < 10, (t.enc.lspPrev.elD i 0).toInt = t.regs.int .lsp i)
    ∧ t.enc = { s.enc with lspPrev := t.enc.lspPrev } ∧ t.dec = s.dec
    ∧ t.flag .rootFail = (s.flag .rootFail || decide (n 50 ≠ 10)) ∧ controlKeptBut .rootFail s t
    ∧ regsKept (wholly [.lsp]) s t ∧ bufsKept nowhere s t

/-- R152: the recurrence evaluates `cos 5w + f(1) cos 4w + f(2) cos 3w + f(3) cos 2w + f(4) cos w + f(5)/2`
at `x = cos w`. -/
def Obligations.ChebyshevIsCosineSum : Prop :=
  ∀ (f1 f2 f3 f4 f5 x : Rat) (w : ℝ), (x : ℝ) = Real.cos w →
    ((chebyshev [1, f1, f2, f3, f4, f5] x : Rat) : ℝ)
      = Real.cos (5 * w) + f1 * Real.cos (4 * w) + f2 * Real.cos (3 * w) + f3 * Real.cos (2 * w)
        + f4 * Real.cos w + f5 / 2

/-- R154: the rounded mean of the previous and the current quantized LSP. -/
def Obligations.LspInterpMean : Prop :=
  ∀ s : State, s.ready .ed [.all .qlsp] = true →
    ∃ t, exec .lspInterp s = .next t
    ∧ (∀ i < 10, t.holds .ilsp i ⌊((s.qlspPrev i + s.regs.int .qlsp i : Int) : Rat) / 2 + 1 / 2⌋)
    ∧ controlKept s t ∧ channelKept s t ∧ regsKept (wholly [.ilsp]) s t ∧ bufsKept nowhere s t

/-- R155, R161: with the ten LSP as cosines `x_1 .. x_10`, the LP coefficients are those of
`((1 + X)·F1 + (1 - X)·F2) / 2`, F1 and F2 the products of the factors `1 - 2·x·X + X²` over the odd and
the even cosines. -/
def Obligations.LspTolpRecombines : Prop :=
  ∀ (s : State) (sf : Subframe),
    let src : Reg := match sf with | .first => .ilsp | .second => .qlsp
    s.ready .ed [.all src] = true →
    let x (i : Nat) : Rat := (s.regs.int src (i - 1) : Rat) / 2 ^ cfg.qLsp
    let factor (i : Nat) : Polynomial Rat := 1 - Polynomial.C (2 * x i) * Polynomial.X + Polynomial.X ^ 2
    let p : Polynomial Rat :=
      (1 + Polynomial.X) * (factor 1 * factor 3 * factor 5 * factor 7 * factor 9)
        + (1 - Polynomial.X) * (factor 2 * factor 4 * factor 6 * factor 8 * factor 10)
    ∃ t, exec (.lspTolp sf) s = .next t
    ∧ (∀ i, 1 ≤ i → i ≤ 10 →
        t.holds .aq (10 * sf.idx + (i - 1)) (narrow16 (p.coeff i / 2 * 2 ^ cfg.qLp)))
    ∧ controlKept s t ∧ channelKept s t ∧ regsKept (part .aq (10 * sf.idx) 10) s t
    ∧ bufsKept nowhere s t

/-- R156, R162: the stability enforcement with its defaults (notes/assumptions/6.md). `v` is the sorted
input, the first value is raised to the floor, the last lowered to the ceiling, and each value too close
to the one before it is pushed upward. What that guarantees: the floor, the spacing, the ceiling exactly
when the spacing pass does not move the last value past it; and a vector already ascending, bounded and
spaced is left as it is. -/
def Obligations.LsfStabSpaces : Prop :=
  ∀ s : State, s.ready .ed [.all .qlsf] = true →
    ∃ (t : State) (v w : Nat → Int), exec .lsfStab s = .next t ∧ (∀ i < 10, t.holds .qlsf i (w i))
    ∧ (tabFrom v 0 10).Perm (tabFrom (s.regs.int .qlsf) 0 10) ∧ (∀ i < 9, v i ≤ v (i + 1))
    ∧ w 0 = max 40 (v 0)
    ∧ (∀ i < 9, w (i + 1) =
        (let c : Int := if i = 8 then min 25681 (v 9) else v (i + 1)
         if c - w i < 321 then min 32767 (w i + 321) else c))
    ∧ (∀ i < 10, w i = (stab cfg (tabFrom (s.regs.int .qlsf) 0 10)).getD i 0)
    ∧ 40 ≤ w 0 ∧ (∀ i < 9, w i + 321 ≤ w (i + 1) ∨ w (i + 1) = 32767)
    ∧ (w 9 ≤ 25681 ↔ w 8 + 321 ≤ 25681)
    ∧ ((40 ≤ s.regs.int .qlsf 0 ∧ s.regs.int .qlsf 9 ≤ 25681
          ∧ ∀ i < 9, s.regs.int .qlsf i + 321 ≤ s.regs.int .qlsf (i + 1)) →
        ∀ i < 10, w i = s.regs.int .qlsf i)
    ∧ controlKept s t ∧ channelKept s t ∧ regsKept (wholly [.qlsf]) s t ∧ bufsKept nowhere s t

/-- R157, R117: `LSF.COS` writes cosines, each within one unit of the ideal function (the property
`approx_1lsb`), the ideal one saturated. -/
def Obligations.LsfCosWithinOneUnit : Prop :=
  ∀ s : State, s.ready .ed [.all .qlsf] = true →
    ∃ (t : State) (c : Nat → Int), exec .lsfCos s = .next t ∧ (∀ i < 10, t.holds .qlsp i (c i))
    ∧ (∀ i < 10, |(c i : ℝ) - min 32767 (2 ^ 15 * Real.cos (s.regs.int .qlsf i / 2 ^ 13))| ≤ 1)
    ∧ controlKept s t ∧ channelKept s t ∧ regsKept (wholly [.qlsp]) s t ∧ bufsKept nowhere s t

/-- R159: the good frame of `LSF.DEC`, the rearrangement being the identity (its default). -/
def Obligations.LsfDecGoodFrame : Prop :=
  ∀ s : State, s.ready .d [needPrm 0 4] = true → s.bfi = false → (∀ i < 4, s.regs.prmInRange i = true) →
    let l (i : Nat) : Nat := s.regs.nat .prm i
    let cw (i : Nat) : Int := narrow16 ((cfg.tL1 (l 1) i).toInt
      + (if i < 5 then cfg.tL2 (l 2) i else cfg.tL3 (l 3) i).toInt : Int)
    let p (k i : Nat) : Int := (cfg.tMaPred (l 0) k i).toInt
    let w (i : Nat) : Int := narrow16 ((((2 ^ 15 - ∑ k ∈ Finset.range 4, p k i) * cw i
      + ∑ k ∈ Finset.range 4, p k i * (s.dec.lsfHist.elD (10 * k + i) 0).toInt : Int) : Rat) / 2 ^ 15)
    ∃ t, exec .lsfDec s = .next t
    ∧ (∀ i < 10, t.holds .qlsf i ((stab cfg (tabFrom w 0 10)).getD i 0))
    ∧ (∀ i < 10, (t.dec.lsfHist.elD i 0).toInt = cw i)
    ∧ (∀ i < 30, t.dec.lsfHist.elD (10 + i) 0 = s.dec.lsfHist.elD i 0)
    ∧ (∀ i < 10, (t.dec.lsfLast.elD i 0).toInt = t.regs.int .qlsf i)
    ∧ t.dec.l0Last.toNat = l 0
    ∧ t.dec = { s.dec with
        lsfHist := t.dec.lsfHist, lsfLast := t.dec.lsfLast, l0Last := t.dec.l0Last }
    ∧ t.enc = s.enc ∧ controlKept s t ∧ regsKept (wholly [.qlsf]) s t ∧ bufsKept nowhere s t

/-- R160: the erased frame of `LSF.DEC`: the last valid LSF again, the codeword history advanced with the
back-computed codeword, `CONCEAL` set; no operand register is read. -/
def Obligations.LsfDecErasedFrame : Prop :=
  ∀ s : State, s.ready .d [] = true → s.bfi = true →
    let p (k i : Nat) : Int := (cfg.tMaPred s.dec.l0Last.toNat k i).toInt
    let c0 (i : Nat) : Int := 2 ^ 15 - ∑ k ∈ Finset.range 4, p k i
    ∃ t, exec .lsfDec s = .next t
    ∧ (∀ i < 10, t.holds .qlsf i (s.dec.lsfLast.elD i 0).toInt)
    ∧ (∀ i < 10, (t.dec.lsfHist.elD i 0).toInt
        = narrow16 ((((s.dec.lsfLast.elD i 0).toInt * 2 ^ 15
            - ∑ k ∈ Finset.range 4, p k i * (s.dec.lsfHist.elD (10 * k + i) 0).toInt : Int) : Rat)
          / (if c0 i = 0 then 1 else c0 i)))
    ∧ (∀ i < 30, t.dec.lsfHist.elD (10 + i) 0 = s.dec.lsfHist.elD i 0)
    ∧ t.dec = { s.dec with lsfHist := t.dec.lsfHist } ∧ t.enc = s.enc
    ∧ t.flag .conceal = true ∧ controlKeptBut .conceal s t
    ∧ regsKept (wholly [.qlsf]) s t ∧ bufsKept nowhere s t

/-! ## Pitch (43_pitch.md) -/

/-- R186, R187, R217: the codeword maps of lags and pulses invert each other and stay in their widths. -/
def Obligations.CodewordsRoundTrip : Prop :=
  (∀ lag f : Int, 20 ≤ lag → lag ≤ 143 → -1 ≤ f → f ≤ 1 → (84 < lag → f = 0) →
    cfg.p1Dec (cfg.p1Enc lag f) = (lag, f) ∧ cfg.p1Enc lag f < 2 ^ 8)
  ∧ (∀ lag f tmin : Int, tmin ≤ lag → lag ≤ tmin + 9 → -1 ≤ f → f ≤ 1 →
    cfg.p2Dec (cfg.p2Enc lag f tmin) tmin = (lag, f) ∧ cfg.p2Enc lag f tmin < 2 ^ 5)
  ∧ (∀ p : Pulses, p.m0 < 40 → p.m1 < 40 → p.m2 < 40 → p.m3 < 40 → p.m0 % 5 = 0 → p.m1 % 5 = 1 →
    p.m2 % 5 = 2 → 3 ≤ p.m3 % 5 →
    cfg.fcbDecode (cfg.fcbEncode p).1 (cfg.fcbEncode p).2 = p
    ∧ (cfg.fcbEncode p).1 < 2 ^ 13 ∧ (cfg.fcbEncode p).2 < 2 ^ 4)

/-- R180 to R184: the closed-loop search. The lag is the first of its window with the greatest
correlation, the fraction the first of 0, -1, +1 with the greatest correlation of its interpolated
vector, or 0 for a long lag of subframe 0; the codewords, the parity bit (R191) and the derived window
follow. The windows are those of the defaults (notes/assumptions/6.md). -/
def Obligations.PitClSearches : Prop :=
  ∀ (s : State) (sf : Subframe),
    s.ready .e (match sf with
      | .first => [.all .x, .all .h, .all .tol]
      | .second => [.all .x, .all .h, .all .t0min, .all .t0max]) = true →
    (sf = .second → 20 ≤ s.regs.int .t0min 0 ∧ s.regs.int .t0max 0 = s.regs.int .t0min 0 + 9
      ∧ s.regs.int .t0max 0 ≤ 143) →
    let lo : Int := match sf with
      | .first => if 140 < s.regs.int .tol 0 then 137 else max 20 (s.regs.int .tol 0 - 3)
      | .second => s.regs.int .t0min 0
    let hi : Int := match sf with
      | .first => lo + 6
      | .second => lo + 9
    let d (n : Nat) : Int := ∑ i ∈ Finset.range (40 - n), s.regs.int .x (n + i) * s.regs.int .h i
    let corr (k : Int) : Int := ∑ n ∈ Finset.range 40, d n * s.bufs.at .exc (sfBase sf + n - k)
    let vec (lag f : Int) (n : Nat) : Int := ((interp cfg s.bufs sf lag f).getD n 0).toInt
    let fcorr (lag f : Int) : Int := ∑ n ∈ Finset.range 40, d n * vec lag f n
    ∃ (t : State) (lag f : Int), exec (.pitCl sf) s = .next t
    ∧ t.holds .t0 0 lag ∧ t.holds .t0f 0 f ∧ (∀ n < 40, t.holds .acv n (vec lag f n))
    ∧ interpolated s sf lag f (vec lag f) ∧ lo ≤ lag ∧ lag ≤ hi ∧ 20 ≤ lag ∧ lag ≤ 143
    ∧ (∀ k, lo ≤ k → k ≤ hi → corr k ≤ corr lag) ∧ (∀ k, lo ≤ k → k < lag → corr k < corr lag)
    ∧ ((sf = .first ∧ 84 < lag ∧ f = 0)
      ∨ (¬(sf = .first ∧ 84 < lag)
        ∧ ((f = 0 ∧ fcorr lag (-1) ≤ fcorr lag 0 ∧ fcorr lag 1 ≤ fcorr lag 0)
          ∨ (f = -1 ∧ fcorr lag 0 < fcorr lag (-1) ∧ fcorr lag 1 ≤ fcorr lag (-1))
          ∨ (f = 1 ∧ fcorr lag 0 < fcorr lag 1 ∧ fcorr lag (-1) < fcorr lag 1))))
    ∧ (sf = .first →
        t.prmHolds 4 (cfg.p1Enc lag f) ∧ t.prmHolds 5 (oddParity (cfg.p1Enc lag f))
        ∧ t.holds .t0min 0 (derivedLow lag) ∧ t.holds .t0max 0 (derivedLow lag + 9)
        ∧ regsKept (fun reg i => wholly [.t0, .t0f, .acv, .t0min, .t0max] reg i ∨ part .prm 4 2 reg i) s t)
    ∧ (sf = .second → t.prmHolds 10 (cfg.p2Enc lag f lo)
        ∧ regsKept (fun reg i => wholly [.t0, .t0f, .acv] reg i ∨ part .prm 10 1 reg i) s t)
    ∧ controlKept s t ∧ channelKept s t ∧ bufsKept nowhere s t

/-- R189, R190: the interpolated vector satisfies the rule's equations. -/
def Obligations.PitInterpVector : Prop :=
  ∀ (s : State) (sf : Subframe), s.ready .ed [.all .t0, .all .t0f] = true →
    19 ≤ s.regs.int .t0 0 → s.regs.int .t0 0 ≤ 144 → -1 ≤ s.regs.int .t0f 0 → s.regs.int .t0f 0 ≤ 1 →
    ∃ (t : State) (v : Nat → Int), exec (.pitInterp sf) s = .next t ∧ (∀ n < 40, t.holds .acv n (v n))
    ∧ interpolated s sf (s.regs.int .t0 0) (s.regs.int .t0f 0) v
    ∧ controlKept s t ∧ channelKept s t ∧ regsKept (wholly [.acv]) s t ∧ bufsKept nowhere s t

/-- R193: a good subframe of `PIT.DEC`, for a window that its producer can write (R181). Subframe 1 needs `T0MAX`
defined as row V19 of R24 has it (the model's reading, notes/assumptions/22.md); its value is not used. -/
def Obligations.PitDecGoodSubframe : Prop :=
  ∀ (s : State) (sf : Subframe),
    s.ready .d (match sf with
      | .first => [needPrm 4 1]
      | .second => [needPrm 10 1, .all .t0min, .all .t0max]) = true →
    s.bfi = false → (sf = .first → s.pe = false) →
    (match sf with | .first => s.regs.nat .prm 4 < 256 | .second => s.regs.nat .prm 10 < 32) →
    (sf = .second → 20 ≤ s.regs.int .t0min 0 ∧ s.regs.int .t0min 0 ≤ 134) →
    let lf : Int × Int := match sf with
      | .first => cfg.p1Dec (s.regs.nat .prm 4)
      | .second => cfg.p2Dec (s.regs.nat .prm 10) (s.regs.int .t0min 0)
    ∃ (t : State) (v : Nat → Int), exec (.pitDec sf) s = .next t
    ∧ t.holds .t0 0 lf.1 ∧ t.holds .t0f 0 lf.2 ∧ 19 ≤ lf.1 ∧ lf.1 ≤ 144 ∧ -1 ≤ lf.2 ∧ lf.2 ≤ 1
    ∧ (∀ n < 40, t.holds .acv n (v n)) ∧ interpolated s sf lf.1 lf.2 v
    ∧ t.dec.pitchLast.toInt = lf.1 ∧ t.dec = { s.dec with pitchLast := t.dec.pitchLast }
    ∧ (sf = .first → t.holds .t0min 0 (derivedLow lf.1) ∧ t.holds .t0max 0 (derivedLow lf.1 + 9)
        ∧ regsKept (wholly [.t0, .t0f, .acv, .t0min, .t0max]) s t)
    ∧ (sf = .second → regsKept (wholly [.t0, .t0f, .acv]) s t)
    ∧ t.enc = s.enc ∧ controlKept s t ∧ bufsKept nowhere s t

/-- R192, R194: the fallback of `PIT.DEC`, on an erased frame or, for subframe 0, on a parity error: the
stored lag is used, then incremented and clamped to 143; `PRM` is not read. -/
def Obligations.PitDecFallback : Prop :=
  ∀ (s : State) (sf : Subframe), s.ready .d [] = true →
    (match sf with | .first => s.bfi || s.pe | .second => s.bfi) = true →
    19 ≤ s.dec.pitchLast.toInt → s.dec.pitchLast.toInt ≤ 144 →
    let lag : Int := s.dec.pitchLast.toInt
    ∃ (t : State) (v : Nat → Int), exec (.pitDec sf) s = .next t
    ∧ t.holds .t0 0 lag ∧ t.holds .t0f 0 0
    ∧ (∀ n < 40, t.holds .acv n (v n)) ∧ interpolated s sf lag 0 v
    ∧ t.dec.pitchLast.toInt = min (lag + 1) 143 ∧ t.dec = { s.dec with pitchLast := t.dec.pitchLast }
    ∧ (sf = .first → t.holds .t0min 0 (derivedLow lag) ∧ t.holds .t0max 0 (derivedLow lag + 9)
        ∧ regsKept (wholly [.t0, .t0f, .acv, .t0min, .t0max]) s t)
    ∧ (sf = .second → regsKept (wholly [.t0, .t0f, .acv]) s t)
    ∧ t.enc = s.enc ∧ t.flag .conceal = true ∧ controlKeptBut .conceal s t ∧ bufsKept nowhere s t

/-- The model's reading (DEDUCED, notes/assumptions/13.md) of the lags no codeword leads to, from a
host-written `T0MIN` on a good subframe 1 or from a restored `D.PITCH_LAST` in the fallback. Such a lag runs
as R190, R193 and R194 say whenever every sample of R190 exists and lies in `EXC` (R61), is refused
`parameter-range` where a sample would be read before it is made, and else `buffer-bounds`. -/
def Obligations.PitDecOddWindow : Prop :=
  ∀ (s : State) (sf : Subframe) (lag f next : Int),
    (sf = .second ∧ s.ready .d [needPrm 10 1, .all .t0min, .all .t0max] = true ∧ s.bfi = false
        ∧ s.regs.nat .prm 10 < 32 ∧ cfg.p2Dec (s.regs.nat .prm 10) (s.regs.int .t0min 0) = (lag, f)
        ∧ next = lag
      ∨ s.ready .d [] = true ∧ (s.bfi = true ∨ sf = .first ∧ s.pe = true)
        ∧ lag = s.dec.pitchLast.toInt ∧ f = 0 ∧ next = min (lag + 1) 143) →
    let base : Int := if f = 1 then -lag - 1 else -lag
    let lowest : Int := 40 * sf.idx + base - 9
    (-11 < base → exec (.pitDec sf) s = .refused .parameterRange)
    ∧ (lowest < -154 → exec (.pitDec sf) s = .refused .bufferBounds)
    ∧ (-154 ≤ lowest → base ≤ -11 →
        ∃ (t : State) (v : Nat → Int), exec (.pitDec sf) s = .next t ∧ t.holds .t0 0 lag ∧ t.holds .t0f 0 f
        ∧ (∀ n < 40, t.holds .acv n (v n)) ∧ interpolated s sf lag f v
        ∧ t.dec.pitchLast.toInt = next ∧ t.dec = { s.dec with pitchLast := t.dec.pitchLast }
        ∧ (sf = .first → t.holds .t0min 0 (derivedLow lag) ∧ t.holds .t0max 0 (derivedLow lag + 9)
            ∧ regsKept (wholly [.t0, .t0f, .acv, .t0min, .t0max]) s t)
        ∧ (sf = .second → regsKept (wholly [.t0, .t0f, .acv]) s t)
        ∧ t.flag .conceal = (s.flag .conceal || s.bfi || (decide (sf = .first) && s.pe))
        ∧ t.enc = s.enc ∧ controlKeptBut .conceal s t ∧ bufsKept nowhere s t)

/-- R195: the adaptive-codebook vector convolved with the impulse response. -/
def Obligations.PitConvFilters : Prop :=
  ∀ s : State, s.ready .e [.all .acv, .all .h] = true →
    ∃ t, exec .pitConv s = .next t
    ∧ (∀ n < 40, t.holds .y n (narrow16 (((∑ i ∈ Finset.range (n + 1),
        s.regs.int .acv i * s.regs.int .h (n - i) : Int) : Rat) / 2 ^ cfg.qH)))
    ∧ controlKept s t ∧ channelKept s t ∧ regsKept (wholly [.y]) s t ∧ bufsKept nowhere s t

/-! ## Fixed codebook (44_fixed_codebook.md) -/

/-- R211, R212, R216: what `FCB.SEARCH` writes. The codewords are in range; the code vector is the one
the decoder makes of them under the same lag and gain; each pulse has the sign of the correlation at its
position; the reduced target and the filtered vector follow their formulas. -/
def Obligations.FcbSearchConsistent : Prop :=
  ∀ (s : State) (sf : Subframe), s.ready .e [.all .x, .all .y, .all .gpu, .all .h, .all .t0] = true →
    19 ≤ s.regs.int .t0 0 → s.regs.int .t0 0 ≤ 144 →
    let lag : Nat := (s.regs.int .t0 0).toNat
    let beta : Int := min 13107 (max 3277 s.enc.gpLast.toInt)
    let hs (n : Nat) : Int := (sharpen cfg (s.regs.int .h) lag beta).getD n 0
    let x2 (n : Nat) : Int := min 32767 (max (-32768) (s.regs.int .x n
      - ⌊(s.regs.int .gpu 0 * s.regs.int .y n : Rat) / 2 ^ cfg.qGp + 1 / 2⌋))
    let d (n : Nat) : Int := ∑ i ∈ Finset.range (40 - n), x2 (n + i) * hs i
    ∃ (t : State) (c sgn : Nat), exec (.fcbSearch sf) s = .next t
    ∧ t.prmHolds (6 + 5 * sf.idx) c ∧ t.prmHolds (7 + 5 * sf.idx) sgn ∧ c < 2 ^ 13 ∧ sgn < 2 ^ 4
    ∧ (let p := cfg.fcbDecode c sgn
       (p.p0 = decide (0 ≤ d p.m0) ∧ p.p1 = decide (0 ≤ d p.m1) ∧ p.p2 = decide (0 ≤ d p.m2)
          ∧ p.p3 = decide (0 ≤ d p.m3))
       ∧ ∀ n < 40, t.holds .fcv n (codeVector cfg p lag beta n).toInt)
    ∧ (∀ n < 40, t.holds .x2 n (x2 n))
    ∧ (∀ n < 40, t.holds .z n (narrow16 (((∑ i ∈ Finset.range (n + 1),
        t.regs.int .fcv i * s.regs.int .h (n - i) : Int) : Rat) * 2 ^ cfg.qZ / 2 ^ (cfg.qFcv + cfg.qH))))
    ∧ controlKept s t ∧ channelKept s t ∧ bufsKept nowhere s t
    ∧ regsKept (fun reg i => wholly [.x2, .fcv, .z] reg i ∨ part .prm (6 + 5 * sf.idx) 2 reg i) s t

/-- R213, R214, R215: which pulses `FCB.SEARCH` chooses, by the default schedule (notes/assumptions/6.md).
Each pass takes the two positions of greatest correlation on its first track, the first pair of greatest
ratio they make with its second track, and the first four of greatest ratio that pair makes with its other
two tracks; the first best pass wins. Where no candidate of a phase has energy the first positions of
its tracks stand, and where no pass has, positions 0 to 3. -/
def Obligations.FcbSearchFindsBest : Prop :=
  ∀ (s : State) (sf : Subframe), s.ready .e [.all .x, .all .y, .all .gpu, .all .h, .all .t0] = true →
    19 ≤ s.regs.int .t0 0 → s.regs.int .t0 0 ≤ 144 →
    let lag : Nat := (s.regs.int .t0 0).toNat
    let beta : Int := min 13107 (max 3277 s.enc.gpLast.toInt)
    let hs (n : Nat) : Int := (sharpen cfg (s.regs.int .h) lag beta).getD n 0
    let x2 (n : Nat) : Int := min 32767 (max (-32768) (s.regs.int .x n
      - ⌊(s.regs.int .gpu 0 * s.regs.int .y n : Rat) / 2 ^ cfg.qGp + 1 / 2⌋))
    let d (n : Nat) : Int := ∑ i ∈ Finset.range (40 - n), x2 (n + i) * hs i
    let sgn (n : Nat) : Int := if 0 ≤ d n then 1 else -1
    let ps (i j : Nat) : Int := sgn i * sgn j * ∑ n ∈ Finset.Ico (max i j) 40, hs (n - i) * hs (n - j)
    let corr (m : List Nat) : Int := (m.map fun i => |d i|).sum
    let energy (m : List Nat) : Int := (m.map fun i => (m.map (ps i)).sum).sum
    let pos (track : Nat) : List Nat := (List.range 8).map fun k => track + 5 * k
    let pass (u v w z : Nat) (m : List Nat) : Prop := ∃ i0 i1 ia ib ic id : Nat,
      m = [ia, ib, ic, id]
      ∧ firstMax (fun n => |d n|) (pos u) i0 ∧ firstMax (fun n => |d n|) ((pos u).filter (· ≠ i0)) i1
      ∧ (let pair : List (List Nat) := [i0, i1].flatMap fun i => (pos v).map fun j => [i, j]
         firstBest corr energy pair [ia, ib] ∨ (∀ p ∈ pair, energy p = 0) ∧ ia = u ∧ ib = v)
      ∧ (let four : List (List Nat) := (pos w).flatMap fun i => (pos z).map fun j => [ia, ib, i, j]
         firstBest corr energy four m ∨ (∀ p ∈ four, energy p = 0) ∧ ic = w ∧ id = z)
    ∃ (t : State) (c signs : Nat) (m1 m2 m3 m4 m : List Nat), exec (.fcbSearch sf) s = .next t
    ∧ t.prmHolds (6 + 5 * sf.idx) c ∧ t.prmHolds (7 + 5 * sf.idx) signs
    ∧ pass 2 3 0 1 m1 ∧ pass 3 0 1 2 m2 ∧ pass 2 4 0 1 m3 ∧ pass 4 0 1 2 m4
    ∧ (firstBest corr energy [m1, m2, m3, m4] m
        ∨ (∀ p ∈ [m1, m2, m3, m4], energy p = 0) ∧ m = [0, 1, 2, 3])
    ∧ (let p := cfg.fcbDecode c signs
       p.m0 ∈ m ∧ p.m1 ∈ m ∧ p.m2 ∈ m ∧ p.m3 ∈ m)

/-- R213: the energy of any set of pulses is non-negative, in the scale of the sharpened response. -/
def Obligations.PulseEnergyNonneg : Prop :=
  ∀ (x2 hs : List Int) (ms : List Nat), (∀ m ∈ ms, m < 40) →
    0 ≤ (ms.map fun m => (ms.map ((pulseTable x2 hs).energy m)).sum).sum

/-- R220, R222: the good frame of `FCB.DEC`: four unit pulses, then the sharpening in place. -/
def Obligations.FcbDecGoodFrame : Prop :=
  ∀ (s : State) (sf : Subframe), s.ready .d [.all .t0, needPrm (6 + 5 * sf.idx) 2] = true →
    s.bfi = false → 19 ≤ s.regs.int .t0 0 → s.regs.int .t0 0 ≤ 144 →
    s.regs.nat .prm (6 + 5 * sf.idx) < 2 ^ 13 → s.regs.nat .prm (7 + 5 * sf.idx) < 2 ^ 4 →
    let p := cfg.fcbDecode (s.regs.nat .prm (6 + 5 * sf.idx)) (s.regs.nat .prm (7 + 5 * sf.idx))
    let lag : Nat := (s.regs.int .t0 0).toNat
    let pulse (n m : Nat) (pos : Bool) : Int :=
      if n = m then (if pos then 2 ^ cfg.qFcv else -2 ^ cfg.qFcv) else 0
    let c (n : Nat) : Int := pulse n p.m0 p.p0 + pulse n p.m1 p.p1 + pulse n p.m2 p.p2 + pulse n p.m3 p.p3
    ∃ (t : State) (v : Nat → Int), exec (.fcbDec sf) s = .next t ∧ (∀ n < 40, t.holds .fcv n (v n))
    ∧ (∀ n < 40, v n = if lag ≤ n then
          narrow16 ((c n + ⌊(s.dec.gpBnd.toInt * v (n - lag) : Rat) / 2 ^ cfg.qGp + 1 / 2⌋ : Int) : Rat)
        else c n)
    ∧ controlKept s t ∧ channelKept s t ∧ regsKept (wholly [.fcv]) s t ∧ bufsKept nowhere s t

/-- R221: the erased frame of `FCB.DEC`: the codewords come from two steps of the generator on `D.SEED`,
and the vector is the good frame's for them; `PRM` is not read. -/
def Obligations.FcbDecErasedFrame : Prop :=
  ∀ (s : State) (sf : Subframe), s.ready .d [.all .t0] = true → s.bfi = true →
    19 ≤ s.regs.int .t0 0 → s.regs.int .t0 0 ≤ 144 →
    let seed1 : Nat := (s.dec.seed.toNat * 31821 + 13849) % 2 ^ 16
    let seed2 : Nat := (seed1 * 31821 + 13849) % 2 ^ 16
    ∃ t, exec (.fcbDec sf) s = .next t
    ∧ (∀ n < 40, t.holds .fcv n (codeVector cfg (cfg.fcbDecode (seed1 % 2 ^ 13) (seed2 % 2 ^ 4))
        (s.regs.int .t0 0).toNat s.dec.gpBnd.toInt n).toInt)
    ∧ t.dec.seed.toNat = seed2 ∧ t.dec = { s.dec with seed := t.dec.seed } ∧ t.enc = s.enc
    ∧ t.flag .conceal = true ∧ controlKeptBut .conceal s t
    ∧ regsKept (wholly [.fcv]) s t ∧ bufsKept nowhere s t

/-- R218: the code vector convolved with the impulse response, on either role. -/
def Obligations.FcbConvFilters : Prop :=
  ∀ s : State, s.ready .ed [.all .fcv, .all .h] = true →
    ∃ t, exec .fcbConv s = .next t
    ∧ (∀ n < 40, t.holds .z n (narrow16 (((∑ i ∈ Finset.range (n + 1),
        s.regs.int .fcv i * s.regs.int .h (n - i) : Int) : Rat) * 2 ^ cfg.qZ / 2 ^ (cfg.qFcv + cfg.qH))))
    ∧ controlKept s t ∧ channelKept s t ∧ regsKept (wholly [.z]) s t ∧ bufsKept nowhere s t

/-! ## Gain (45_gain.md) -/

/-- R240: the predicted gain is positive and is the square root of
`10^((Ep + GAIN_MEAN_DB)/10) · 40·2^(2·Q_FCV)/en · 2^(2·Q_GC)` rounded to nearest and clamped to
1..2^31 - 1. The power of ten is the kernel's (notes/assumptions/9.md). -/
def Obligations.GainPredRounded : Prop :=
  ∀ s : State, s.ready .ed [.all .fcv] = true →
    let en : Int := ∑ n ∈ Finset.range 40, s.regs.int .fcv n * s.regs.int .fcv n
    let ep : Rat := ∑ k ∈ Finset.range 4,
      ((cfg.tGainMa k).toInt : Rat) / 2 ^ 15 * ((s.gpeHist k : Rat) / 2 ^ cfg.qGpe)
    let sq : Rat := pow10 ((ep + cfg.gainMeanDb) / 10) * (40 * 2 ^ (2 * cfg.qFcv))
      / (if en = 0 then 1 else en) * 2 ^ (2 * cfg.qGc)
    ∃ (t : State) (g : Int), exec .gainPred s = .next t ∧ t.holds .gcp 0 g
    ∧ 1 ≤ g ∧ g ≤ 2147483647
    ∧ (g = 1 ∨ ((2 * g - 1) * (2 * g - 1) : Rat) ≤ 4 * sq)
    ∧ (g = 2147483647 ∨ 4 * sq < ((2 * g + 1) * (2 * g + 1) : Rat))
    ∧ controlKept s t ∧ channelKept s t ∧ regsKept (wholly [.gcp]) s t ∧ bufsKept nowhere s t

/-- R118, R240: the kernel's power of ten is within a relative error of `2^-100` of the ideal one. -/
def Obligations.PowerOfTenClose : Prop :=
  ∀ x : Rat, |((pow10 x : Rat) : ℝ) - (10 : ℝ) ^ (x : ℝ)| ≤ (10 : ℝ) ^ (x : ℝ) / 2 ^ 100

/-- R244, R245: the pair `GAIN.QUANT` chooses minimises the weighted error over the whole codebooks, the
first pair with the least score winning; outputs, transmitted indices and history follow from it. -/
def Obligations.GainQuantMinimises : Prop :=
  ∀ (s : State) (sf : Subframe), s.ready .e [.all .x, .all .y, .all .z, .all .gcp] = true →
    let dot (u v : Reg) : Rat := ∑ n ∈ Finset.range 40, (s.regs.int u n * s.regs.int v n : Rat)
    let qz : Rat := 2 ^ cfg.qZ
    let gcp : Int := s.regs.int .gcp 0
    let gam (i j : Nat) : Int := (cfg.tGa i 1).toInt + (cfg.tGb j 1).toInt
    let gp (i j : Nat) : Rat := (((cfg.tGa i 0).toInt + (cfg.tGb j 0).toInt : Int) : Rat) / 2 ^ cfg.qGp
    let gc (i j : Nat) : Rat := (gam i j : Rat) / 2 ^ cfg.qGamma * ((gcp : Rat) / 2 ^ cfg.qGc)
    let score (i j : Nat) : Rat := gp i j * gp i j * dot .y .y + gc i j * gc i j * (dot .z .z / (qz * qz))
      - 2 * gp i j * dot .x .y - 2 * gc i j * (dot .x .z / qz) + 2 * gp i j * gc i j * (dot .y .z / qz)
    ∃ (t : State) (ia : Fin 8) (ib : Fin 16), exec (.gainQuant sf) s = .next t
    ∧ (∀ (i : Fin 8) (j : Fin 16), score ia ib ≤ score i j)
    ∧ (∀ (i : Fin 8) (j : Fin 16), 16 * i.val + j.val < 16 * ia.val + ib.val → score ia ib < score i j)
    ∧ t.holds .gp 0 (narrow16 (((cfg.tGa ia 0).toInt + (cfg.tGb ib 0).toInt : Int) : Rat))
    ∧ t.holds .gc 0 (narrow32 (((gam ia ib * gcp : Int) : Rat) / 2 ^ cfg.qGamma))
    ∧ (∃ (ta : Fin 8) (tb : Fin 16), cfg.gaImap ta = ia ∧ cfg.gbImap tb = ib
        ∧ t.prmHolds (8 + 5 * sf.idx) ta ∧ t.prmHolds (9 + 5 * sf.idx) tb)
    ∧ t.enc.gpeHist.elD 0 0 = dbOf (max (gam ia ib) 1).toNat cfg.qGamma cfg.qGpe
    ∧ (∀ k < 3, t.enc.gpeHist.elD (k + 1) 0 = s.enc.gpeHist.elD k 0)
    ∧ t.enc = { s.enc with gpeHist := t.enc.gpeHist } ∧ t.dec = s.dec
    ∧ controlKept s t ∧ bufsKept nowhere s t
    ∧ regsKept (fun reg i => wholly [.gp, .gc] reg i ∨ part .prm (8 + 5 * sf.idx) 2 reg i) s t

/-- R247: the good frame of `GAIN.DEC`. -/
def Obligations.GainDecGoodFrame : Prop :=
  ∀ (s : State) (sf : Subframe) (pa : Fin 8) (pb : Fin 16),
    s.ready .d [.all .gcp, needPrm (8 + 5 * sf.idx) 2] = true → s.bfi = false →
    s.regs.nat .prm (8 + 5 * sf.idx) = pa → s.regs.nat .prm (9 + 5 * sf.idx) = pb →
    let ia := cfg.gaImap pa
    let ib := cfg.gbImap pb
    let gam : Int := (cfg.tGa ia 1).toInt + (cfg.tGb ib 1).toInt
    ∃ (t : State) (p g : Int), exec (.gainDec sf) s = .next t ∧ t.holds .gp 0 p ∧ t.holds .gc 0 g
    ∧ p = narrow16 (((cfg.tGa ia 0).toInt + (cfg.tGb ib 0).toInt : Int) : Rat)
    ∧ g = narrow32 (((gam * s.regs.int .gcp 0 : Int) : Rat) / 2 ^ cfg.qGamma)
    ∧ t.dec.gpRaw.toInt = p ∧ t.dec.gpBnd.toInt = min 13107 (max 3277 p) ∧ t.dec.gc.toInt = g
    ∧ t.dec.gpeHist.elD 0 0 = dbOf (max gam 1).toNat cfg.qGamma cfg.qGpe
    ∧ (∀ k < 3, t.dec.gpeHist.elD (k + 1) 0 = s.dec.gpeHist.elD k 0)
    ∧ t.dec = { s.dec with
        gpRaw := t.dec.gpRaw, gpBnd := t.dec.gpBnd, gc := t.dec.gc, gpeHist := t.dec.gpeHist }
    ∧ t.enc = s.enc ∧ controlKept s t ∧ regsKept (wholly [.gp, .gc]) s t ∧ bufsKept nowhere s t

/-- R248: the erased frame of `GAIN.DEC`: the attenuated gains and the clamped average less 4 dB; neither
`PRM` nor `GCP` is read. The floor of -14 dB and the bounds 0.2 and 0.8 of the bounded gain are defaults
(notes/assumptions/6.md), and that the cap is one on the attenuated gain is the spec's decision, not the
source's, as R248 says. -/
def Obligations.GainDecErasedFrame : Prop :=
  ∀ (s : State) (sf : Subframe), s.ready .d [] = true → s.bfi = true →
    let hist (k : Nat) : Int := (s.dec.gpeHist.elD k 0).toInt
    ∃ (t : State) (p g : Int), exec (.gainDec sf) s = .next t ∧ t.holds .gp 0 p ∧ t.holds .gc 0 g
    ∧ p = min ⌊(9 / 10 : Rat) * s.dec.gpRaw.toInt + 1 / 2⌋ 14746
    ∧ g = ⌊(98 / 100 : Rat) * s.dec.gc.toInt + 1 / 2⌋
    ∧ t.dec.gpRaw.toInt = p ∧ t.dec.gpBnd.toInt = min 13107 (max 3277 p) ∧ t.dec.gc.toInt = g
    ∧ (t.dec.gpeHist.elD 0 0).toInt
      = max (⌊((hist 0 + hist 1 + hist 2 + hist 3 : Int) : Rat) / 4 + 1 / 2⌋ - 4096) (-14336)
    ∧ (∀ k < 3, t.dec.gpeHist.elD (k + 1) 0 = s.dec.gpeHist.elD k 0)
    ∧ t.dec = { s.dec with
        gpRaw := t.dec.gpRaw, gpBnd := t.dec.gpBnd, gc := t.dec.gc, gpeHist := t.dec.gpeHist }
    ∧ t.enc = s.enc ∧ t.flag .conceal = true ∧ controlKeptBut .conceal s t
    ∧ regsKept (wholly [.gp, .gc]) s t ∧ bufsKept nowhere s t

/-- R249, R322: over an erased subframe neither gain grows in magnitude, and the gains written are the
ones the next erased subframe starts from, so over consecutive ones the magnitudes never increase. -/
def Obligations.ErasedGainsDecay : Prop :=
  ∀ (s t : State) (sf : Subframe), s.ready .d [] = true → s.bfi = true →
    exec (.gainDec sf) s = .next t →
    |t.regs.int .gp 0| ≤ |s.dec.gpRaw.toInt| ∧ |t.regs.int .gc 0| ≤ |s.dec.gc.toInt|
    ∧ t.dec.gpRaw.toInt = t.regs.int .gp 0 ∧ t.dec.gc.toInt = t.regs.int .gc 0

/-- R245: the correction factor in dB, `20·log10(m / 2^Q_GAMMA)` in format `Q_GPE`, correctly rounded and
saturated. -/
def Obligations.DecibelsCorrectlyRounded : Prop :=
  ∀ m : Nat, 0 < m →
    let k : Int := (dbOf m cfg.qGamma cfg.qGpe).toInt
    let v : ℝ := 20 * Real.logb 10 ((m : ℝ) / 2 ^ cfg.qGamma) * 2 ^ cfg.qGpe
    (k = -32768 ∨ (k : ℝ) - 1 / 2 ≤ v) ∧ (k = 32767 ∨ v < (k : ℝ) + 1 / 2)

/-! ## Filters (46_filters.md) -/

/-- R270: one 2nd-order section over the frame. `x` and `y` are its inputs and outputs, the memory being
their values at -1 and -2; on an encoder channel `SIG` is rolled, on a decoder channel `PCM` written. -/
def Obligations.FltHpSection : Prop :=
  ∀ s : State, s.ready .ed (match s.role with | .enc => [.all .pcm] | .dec => [.all .pfout]) = true →
    let b : Biquad := match s.role with | .enc => cfg.tHpPre | .dec => cfg.tHpPost
    let mem (st : State) (k : Nat) : Int := match s.role with
      | .enc => (st.enc.hpMem.elD k 0).toInt
      | .dec => (st.dec.hpMem.elD k 0).toInt
    ∃ (t : State) (x y : Int → Int), exec .fltHp s = .next t
    ∧ x (-1) = mem s 0 ∧ x (-2) = mem s 1 ∧ y (-1) = mem s 2 ∧ y (-2) = mem s 3
    ∧ (∀ n : Nat, n < 80 →
        x n = s.regs.int (match s.role with | .enc => .pcm | .dec => .pfout) n
        ∧ y n = narrow16 (((b.b0.toInt * x n + b.b1.toInt * x (n - 1) + b.b2.toInt * x (n - 2)
            - b.a1.toInt * y (n - 1) - b.a2.toInt * y (n - 2) : Int) : Rat) / 2 ^ cfg.qHp))
    ∧ mem t 0 = x 79 ∧ mem t 1 = x 78 ∧ mem t 2 = y 79 ∧ mem t 3 = y 78
    ∧ (s.role = .enc → (∀ n : Nat, n < 80 → t.bufs.at .sig (160 + n) = y n)
        ∧ (∀ i : Int, 0 ≤ i → i < 160 → t.bufs.read .sig i = s.bufs.read .sig (i + 80))
        ∧ t.enc = { s.enc with hpMem := t.enc.hpMem } ∧ t.dec = s.dec
        ∧ regsKept (wholly []) s t ∧ bufsKept (fun b _ => b = .sig) s t)
    ∧ (s.role = .dec → (∀ n : Nat, n < 80 → t.holds .pcm n (y n))
        ∧ t.dec = { s.dec with hpMem := t.dec.hpMem } ∧ t.enc = s.enc
        ∧ regsKept (wholly [.pcm]) s t ∧ bufsKept nowhere s t)
    ∧ controlKept s t

/-- R267: all-pole synthesis, each sample computed from the outputs before it, fed back saturated. -/
def Obligations.FltSynRecursion : Prop :=
  ∀ (s : State) (sf : Subframe), s.ready .d [⟨.aq, 10 * sf.idx, 10⟩] = true →
    ∃ t, exec (.fltSyn sf) s = .next t
    ∧ (∀ n : Nat, n < 40 → t.bufs.at .speech (sfBase sf + n)
        = narrow16 (((s.bufs.at .exc (sfBase sf + n) * 2 ^ cfg.qLp - ∑ i ∈ Finset.range 10,
            s.regs.int .aq (10 * sf.idx + i) * t.bufs.at .speech (sfBase sf + n - 1 - i) : Int) : Rat)
          / 2 ^ cfg.qLp))
    ∧ controlKept s t ∧ channelKept s t ∧ regsKept (wholly []) s t
    ∧ bufsKept (subframeOf .speech sf) s t

/-- R268: the LP residual of the frame being coded, written to `EXC`. -/
def Obligations.FltResResidual : Prop :=
  ∀ (s : State) (sf : Subframe), s.ready .e [⟨.aq, 10 * sf.idx, 10⟩] = true →
    ∃ t, exec (.fltRes sf) s = .next t
    ∧ (∀ n : Nat, n < 40 → t.bufs.at .exc (sfBase sf + n)
        = (let k : Int := 120 + 40 * sf.idx + n
           narrow16 (((s.bufs.at .sig k * 2 ^ cfg.qLp + ∑ i ∈ Finset.range 10,
            s.regs.int .aq (10 * sf.idx + i) * s.bufs.at .sig (k - 1 - i) : Int) : Rat) / 2 ^ cfg.qLp)))
    ∧ controlKept s t ∧ channelKept s t ∧ regsKept (wholly []) s t ∧ bufsKept (subframeOf .exc sf) s t

/-- R269, R266: the perceptual weighting filter. -/
def Obligations.FltWgtWeights : Prop :=
  ∀ (s : State) (sf : Subframe), s.ready .e [⟨.aq, 10 * sf.idx, 10⟩] = true →
    let a (i : Nat) : Int := if i = 0 then 2 ^ cfg.qLp else s.regs.int .aq (10 * sf.idx + (i - 1))
    let num (i : Nat) : Int := narrow16 ((a (i + 1) : Rat) * cfg.gammaWNum ^ (i + 1))
    let den (i : Nat) : Int := narrow16 ((a (i + 1) : Rat) * cfg.gammaWDen ^ (i + 1)
      - cfg.wTilt * (a i : Rat) * cfg.gammaWDen ^ i)
    ∃ t, exec (.fltWgt sf) s = .next t
    ∧ (∀ n : Nat, n < 40 →
        let k : Int := 120 + 40 * sf.idx + n
        let r : Int := narrow16 (((s.bufs.at .sig k * 2 ^ cfg.qLp + ∑ i ∈ Finset.range 10,
            num i * s.bufs.at .sig (k - 1 - i) : Int) : Rat) / 2 ^ cfg.qLp)
        t.bufs.at .wsp (sfBase sf + n) = narrow16 (((r * 2 ^ cfg.qLp - ∑ i ∈ Finset.range 10,
            den i * t.bufs.at .wsp (sfBase sf + n - 1 - i) : Int) : Rat) / 2 ^ cfg.qLp))
    ∧ controlKept s t ∧ channelKept s t ∧ regsKept (wholly []) s t ∧ bufsKept (subframeOf .wsp sf) s t

/-! ## Post-filter (47_postfilter.md) -/

/-- R291, R266: the residual through the numerator-only bandwidth-expanded filter. -/
def Obligations.PfResResidual : Prop :=
  ∀ (s : State) (sf : Subframe), s.ready .d [⟨.aq, 10 * sf.idx, 10⟩] = true →
    let num (i : Nat) : Int :=
      narrow16 ((s.regs.int .aq (10 * sf.idx + i) : Rat) * cfg.gammaN ^ (i + 1))
    ∃ t, exec (.pfRes sf) s = .next t
    ∧ (∀ n : Nat, n < 40 →
        let k : Int := sfBase sf + n
        t.bufs.at .pfres k = narrow16 (((s.bufs.at .speech k * 2 ^ cfg.qLp + ∑ i ∈ Finset.range 10,
            num i * s.bufs.at .speech (k - 1 - i) : Int) : Rat) / 2 ^ cfg.qLp))
    ∧ controlKept s t ∧ channelKept s t ∧ regsKept (wholly []) s t ∧ bufsKept (subframeOf .pfres sf) s t

/-- R292, R293: the long-term post-filter: the first best lag of the clamped window, the normalized gain
condition decided exactly, the pass-through or the blend, `LTOFF` overwritten. In the filtered branch the
delayed energy is positive and both gains are in [0, 1]. -/
def Obligations.PfLtFilters : Prop :=
  ∀ (s : State) (sf : Subframe), s.ready .d [.all .t0] = true →
    19 ≤ s.regs.int .t0 0 → s.regs.int .t0 0 ≤ 144 →
    let t0 : Int := s.regs.int .t0 0
    let lo : Int := if 140 < t0 then 137 else t0 - 3
    let r (j : Int) : Int := s.bufs.at .pfres (sfBase sf + j)
    let corr (l : Int) : Int := ∑ n ∈ Finset.range 40, r n * r (n - l)
    let energy (l : Int) : Int := ∑ n ∈ Finset.range 40, r (n - l) ^ 2
    ∃ (t : State) (k : Int), exec (.pfLt sf) s = .next t
    ∧ lo ≤ k ∧ k ≤ lo + 6
    ∧ (∀ l, lo ≤ l → l ≤ lo + 6 → corr l ≤ corr k) ∧ (∀ l, lo ≤ l → l < k → corr l < corr k)
    ∧ (if corr k ≤ 0 ∨ (corr k * corr k : Rat) < cfg.pfLtThresh * (energy 0 * energy k : Rat) then
        t.flag .ltOff = true ∧ ∀ n : Nat, n < 40 → t.bufs.at .ltf (sfBase sf + n) = r n
      else
        let gl : Rat := min 1 ((corr k : Rat) / energy k)
        let g1 : Rat := cfg.gammaP * gl / (1 + cfg.gammaP * gl)
        t.flag .ltOff = false ∧ 0 < energy k ∧ 0 ≤ g1 ∧ g1 ≤ 1
        ∧ ∀ n : Nat, n < 40 → t.bufs.at .ltf (sfBase sf + n)
            = narrow16 ((1 - g1) * r n + g1 * r (n - k)))
    ∧ controlKeptBut .ltOff s t ∧ channelKept s t ∧ regsKept (wholly []) s t
    ∧ bufsKept (subframeOf .ltf sf) s t

/-- R294, R295: tilt compensation from the 22-tap response `h` of the ratio filter. -/
def Obligations.PfTiltCompensates : Prop :=
  ∀ (s : State) (sf : Subframe), s.ready .d [⟨.aq, 10 * sf.idx, 10⟩] = true →
    let bwe (g : Rat) (i : Nat) : Int :=
      narrow16 ((s.regs.int .aq (10 * sf.idx + i) : Rat) * g ^ (i + 1))
    ∃ (t : State) (h : Nat → Int), exec (.pfTilt sf) s = .next t
    ∧ (∀ n < 22, h n = narrow16 ((((if n = 0 then 2 ^ cfg.qLp
          else if n ≤ 10 then bwe cfg.gammaN (n - 1) else 0) * 2 ^ cfg.qLp
        - ∑ i ∈ Finset.range (min n 10), bwe cfg.gammaD i * h (n - 1 - i) : Int) : Rat) / 2 ^ cfg.qLp))
    ∧ (let rh0 : Int := ∑ n ∈ Finset.range 22, h n * h n
       let rh1 : Int := ∑ n ∈ Finset.range 21, h n * h (n + 1)
       0 < rh0 ∧ t.holds .k1 0 (narrow16 (2 ^ 15 * (rh1 : Rat) / rh0))
       ∧ t.flag .tiltOff = decide (rh1 < 0)
       ∧ ∀ n : Nat, n < 40 → t.holds .tlt n
          (if rh1 < 0 then s.bufs.at .ltf (sfBase sf + n)
           else narrow16 ((s.bufs.at .ltf (sfBase sf + n) : Rat)
            - cfg.gammaT * rh1 / rh0 * s.bufs.at .ltf (sfBase sf + n - 1))))
    ∧ controlKeptBut .tiltOff s t ∧ channelKept s t ∧ regsKept (wholly [.tlt, .k1]) s t
    ∧ bufsKept nowhere s t

/-- R296, R266: the short-term all-pole post-filter. -/
def Obligations.PfStRecursion : Prop :=
  ∀ (s : State) (sf : Subframe), s.ready .d [⟨.aq, 10 * sf.idx, 10⟩, .all .tlt] = true →
    let den (i : Nat) : Int :=
      narrow16 ((s.regs.int .aq (10 * sf.idx + i) : Rat) * cfg.gammaD ^ (i + 1))
    ∃ t, exec (.pfSt sf) s = .next t
    ∧ (∀ n : Nat, n < 40 → t.bufs.at .stf (sfBase sf + n)
        = narrow16 (((s.regs.int .tlt n * 2 ^ cfg.qLp - ∑ i ∈ Finset.range 10,
            den i * t.bufs.at .stf (sfBase sf + n - 1 - i) : Int) : Rat) / 2 ^ cfg.qLp))
    ∧ controlKept s t ∧ channelKept s t ∧ regsKept (wholly []) s t ∧ bufsKept (subframeOf .stf sf) s t

/-- R297, R298 with the default switch: the gain is `0.9·previous + 0.1·√(ein/eout)`, 0 for the root where
the filtered energy is 0, correctly rounded to `Q_AGC`; it scales every sample of the subframe. -/
def Obligations.PfAgcScales : Prop :=
  ∀ (s : State) (sf : Subframe), s.ready .d [] = true →
    let ein : Int := ∑ n ∈ Finset.range 40, s.bufs.at .speech (sfBase sf + n) ^ 2
    let eout : Int := ∑ n ∈ Finset.range 40, s.bufs.at .stf (sfBase sf + n) ^ 2
    let root : ℝ := if eout = 0 then 0 else Real.sqrt (ein / eout)
    let g : Int := min 32767 (max (-32768)
      ⌊(9 / 10 * s.dec.agcPrev.toInt + 1 / 10 * root * 2 ^ cfg.qAgc + 1 / 2 : ℝ)⌋)
    ∃ t, exec (.pfAgc sf) s = .next t
    ∧ (∀ n : Nat, n < 40 → t.holds .pfout (40 * sf.idx + n)
        (narrow16 ((s.bufs.at .stf (sfBase sf + n) * g : Rat) / 2 ^ cfg.qAgc)))
    ∧ t.dec.agcPrev.toInt = g ∧ t.dec = { s.dec with agcPrev := t.dec.agcPrev } ∧ t.enc = s.enc
    ∧ controlKept s t ∧ regsKept (part .pfout (40 * sf.idx) 40) s t ∧ bufsKept nowhere s t

/-! ## The whole machine -/

/-- Every step keeps the invariant `State.Inv`, from every state that has it: reserved bits read 0 (R22,
R23), an encoder channel has no erasure flag (R337), a channel's outcome flags are its role's (R23), the
other role's state is untouched (R335; that it is parked is the model's, notes/assumptions/11.md), and the
bounded gain stays bounded (R222), also in the snapshots the host will restore. -/
def Obligations.StepKeepsInv : Prop := ∀ s t : State, s.Inv → step s = .next t → t.Inv

/-- The invariant holds at power-on (notes/assumptions/2.md). -/
def Obligations.ResetHasInv : Prop := State.reset.Inv

/-- R319: no command other than the four concealing operations and `CH.INIT` writes the concealment
state, and each of the four writes only its own part of it. `CH.CLOSE` is left out too, as it ends the
channel and leaves all its state unspecified (R336). -/
def Obligations.ConcealmentStateSurvives : Prop :=
  ∀ (i : Instr) (s t : State), exec i s = .next t → (∀ role, i ≠ .chInit role) → i ≠ .chClose →
    (i ≠ .lsfDec → t.dec.lsfLast = s.dec.lsfLast ∧ t.dec.l0Last = s.dec.l0Last
      ∧ t.dec.lsfHist = s.dec.lsfHist)
    ∧ ((∀ sf, i ≠ .pitDec sf) → t.dec.pitchLast = s.dec.pitchLast)
    ∧ ((∀ sf, i ≠ .gainDec sf) → t.dec.gpRaw = s.dec.gpRaw ∧ t.dec.gpBnd = s.dec.gpBnd
      ∧ t.dec.gc = s.dec.gc ∧ t.dec.gpeHist = s.dec.gpeHist)
    ∧ ((∀ sf, i ≠ .fcbDec sf) → t.dec.seed = s.dec.seed)

/-- R23: no operation reads `FSTAT`. Whatever it holds, a command is refused for the same reason or leaves
the same state but for `FSTAT` itself. -/
def Obligations.FstatNeverRead : Prop :=
  ∀ (i : Instr) (s : State) (f : BitVec 16),
    (∀ why, exec i s = .refused why → exec i { s with fstat := f } = .refused why)
    ∧ (∀ t, exec i s = .next t → ∃ g, exec i { s with fstat := f } = .next { t with fstat := g })

/-- R316: on an erased frame the four concealing operations read no element of `PRM`: whatever it holds,
defined or not, they are refused for the same reason or leave the same state but for `PRM` itself. -/
def Obligations.ErasedFrameIgnoresPrm : Prop :=
  ∀ (i : Instr) (s : State) (v : RegVec 16 15), s.bfi = true →
    (i = .lsfDec ∨ ∃ sf, i = .pitDec sf ∨ i = .fcbDec sf ∨ i = .gainDec sf) →
    (∀ why, exec i s = .refused why →
      exec i { s with regs := { s.regs with prm := v } } = .refused why)
    ∧ (∀ t, exec i s = .next t → exec i { s with regs := { s.regs with prm := v } }
        = .next { t with regs := { t.regs with prm := v } })

/-- R358, checks 2 to 6, for every command but `CH.INIT`: the first that fails gives the reason. Checks 2 to
4 depend on the command and `FCTL` alone; check 5 is on the operands of the command's rule (R25), check 6
on their ranges (R91, R180, R189, R192, R211, R219, R246, R292), on the branch the command takes. That `PIT.DEC sf=1` reads
`T0MAX` is row V19 of R24, beside the list of R192 (notes/assumptions/22.md). -/
def Obligations.AdmissionInOrder : Prop :=
  ∀ (i : Instr) (s : State) (roles : RoleSet), roleSetOf i = some roles →
    (s.isOpen = false → exec i s = .refused .channelClosed)
    ∧ (s.isOpen = true → roles.has s.role = false → exec i s = .refused .wrongRole)
    ∧ (s.isOpen = true → roles.has s.role = true → s.inFrame = false → frameLevel i = true →
        exec i s = .refused .notInFrame)
    ∧ (s.isOpen = true → roles.has s.role = true → s.inFrame = true → frameLevel i = true →
        ((∃ need ∈ operandsOf i s, ∃ k < need.count, s.regs.definedAt need.reg (need.first + k) = false) →
          exec i s = .refused .undefinedOperand)
        ∧ ((∀ need ∈ operandsOf i s, ∀ k < need.count, s.regs.definedAt need.reg (need.first + k) = true) →
          ¬operandsInRange i s → exec i s = .refused .parameterRange))

/-! ## The host -/

/-- R89, R90: the frame. Each parameter of a legal vector stands at its first bit position in its declared
width, most significant bit first; byte `k` is bits `8k .. 8k + 7`, the first as bit 7; unpacking reads each
field as the unsigned integer of its bits. So packing and unpacking reproduce the 15 values, and every frame
of ten bytes is the packing of exactly one legal vector. What the host packs after a frame is `PRM`. -/
def Obligations.FrameRoundTrip : Prop :=
  let start : List Nat := [0, 1, 8, 13, 18, 26, 27, 40, 44, 47, 51, 56, 69, 73, 76]
  let width : List Nat := [1, 7, 5, 5, 8, 1, 13, 4, 3, 4, 5, 13, 4, 3, 4]
  let legal (prm : Nat → Nat) : Prop := ∀ i < 15, prm i < 2 ^ width.getD i 0
  (∀ prm : Nat → Nat, legal prm → ∀ i < 15, ∀ j < width.getD i 0,
    (packFrame prm).getMsbD (start.getD i 0 + j) = (prm i).testBit (width.getD i 0 - 1 - j))
  ∧ (∀ (f : BitVec 80) (k b : Nat), k < 10 → b < 8 → (frameByte f k).getMsbD b = f.getMsbD (8 * k + b))
  ∧ (∀ (f : BitVec 80), ∀ i < 15, unpackField f i < 2 ^ width.getD i 0 ∧ ∀ j < width.getD i 0,
    (unpackField f i).testBit (width.getD i 0 - 1 - j) = f.getMsbD (start.getD i 0 + j))
  ∧ (∀ prm : Nat → Nat, legal prm → ∀ i < 15, unpackField (packFrame prm) i = prm i)
  ∧ (∀ f : BitVec 80, packFrame (unpackField f) = f ∧ legal (unpackField f))
  ∧ (∀ f : BitVec 80, frameOfBytes (frameByte f) = f)
  ∧ (∀ b : Nat → BitVec 8, ∀ k < 10, frameByte (frameOfBytes b) k = b k)
  ∧ (∀ rs : Regs, (∀ i < 15, rs.definedAt .prm i = true) → legal (rs.nat .prm) →
    rs.frame = some (packFrame (rs.nat .prm)))

/-- R21, R25: a well-formed host write defines the elements it names, with the values given, and changes
nothing else. That an ill-formed one is refused is the model's choice (notes/assumptions/4.md). -/
def Obligations.HostWriteDefines : Prop :=
  ∀ (s : State) (hw : HostWrite) (rest : List HostAct), s.port = .write hw :: rest →
    (hw.wellFormed = false → step s = .refused .hostWriteMalformed)
    ∧ (hw.wellFormed = true → ∃ t, step s = .next t ∧ t.port = rest
      ∧ (∀ k < hw.vals.length, if hw.reg = .prm
          then t.prmHolds (hw.first + k) (hw.vals.getD k 0).toNat
          else t.holds hw.reg (hw.first + k) (hw.vals.getD k 0))
      ∧ t.fctl = s.fctl ∧ t.fstat = s.fstat ∧ t.closes = s.closes ∧ channelKept s t
      ∧ regsKept (part hw.reg hw.first hw.vals.length) s t ∧ bufsKept nowhere s t)

/-- R21, R384, R344: restoring a snapshot puts the channel's state and buffers back to what they were, so
that a channel with equal registers goes on exactly as it did. Restoring into a channel that is closed or
of the other role is refused (the model's choice, notes/assumptions/4.md). -/
def Obligations.RestoreReinstates : Prop :=
  ∀ (old s : State) (rest : List HostAct), s.port = .restore old.snapshot :: rest →
    (s.isOpen = false ∨ s.role ≠ old.role → step s = .refused .hostRestoreMismatch)
    ∧ (s.isOpen = true → s.role = old.role → old.absentParked → s.absentParked →
        step s = .next { s with port := rest, enc := old.enc, dec := old.dec, bufs := old.bufs })
end

