-- ==== Sys2Proof/Laws/Containers.lean ====
section
/-! SUPPORT. What the containers of Word.lean do: element access after tabulation, replacement and
patching; bounded sums as `Finset` sums; in-order generation by its recurrence. -/

namespace Sys2Proof

theorem tabFrom_getElem? {α : Type} (f : Nat → α) (k n i : Nat) :
    (tabFrom f k n)[i]? = if i < n then some (f (k + i)) else none := by
  induction n generalizing k i with
  | zero => simp [tabFrom]
  | succ n ih =>
    cases i with
    | zero => simp [tabFrom]
    | succ i => simp only [tabFrom, List.getElem?_cons_succ, ih, Nat.succ_lt_succ_iff]; congr 3; omega

theorem tabFrom_getD {α : Type} (f : Nat → α) (k n i : Nat) (d : α) :
    (tabFrom f k n).getD i d = if i < n then f (k + i) else d := by
  rw [List.getD_eq_getElem?_getD, tabFrom_getElem?]
  split <;> rfl

theorem mem_tabFrom {α : Type} (f : Nat → α) (k n : Nat) (x : α) :
    x ∈ tabFrom f k n ↔ ∃ i, i < n ∧ f (k + i) = x := by
  simp only [List.mem_iff_getElem?, tabFrom_getElem?, Option.ite_none_right_eq_some, Option.some.injEq]

/-- Element `i` of a tabulated vector. -/
@[simp] theorem Vec.elD_tab {α : Type} {n : Nat} (f : Nat → α) (i : Nat) (d : α) :
    (Vec.tab f : Vec α n).elD i d = if i < n then f i else d := by
  show (tabFrom f 0 n).getD i d = _
  rw [tabFrom_getD, Nat.zero_add]

/-- A vector has no element at or above its length. -/
theorem Vec.elD_of_le {α : Type} {n : Nat} (v : Vec α n) {i : Nat} (h : n ≤ i) (d : α) : v.elD i d = d := by
  rw [Vec.elD, List.getD_eq_getElem?_getD, List.getElem?_eq_none (by rw [v.len]; exact h)]; rfl

/-- Two vectors with equal elements are equal. -/
theorem Vec.ext_elD {α : Type} {n : Nat} (d : α) {v w : Vec α n} (h : ∀ i < n, v.elD i d = w.elD i d) :
    v = w := by
  obtain ⟨l, hl⟩ := v
  obtain ⟨m, hm⟩ := w
  have : l = m := by
    apply List.ext_getElem (hl.trans hm.symm)
    intro i h1 h2
    have := h i (hl ▸ h1)
    simpa [Vec.elD, List.getD_eq_getElem?_getD, h1, h2] using this
  subst this; rfl

/-- Element `j` after element `i` is replaced. -/
theorem Vec.elD_set {α : Type} {n : Nat} (v : Vec α n) (i j : Nat) (x d : α) :
    (v.set i x).elD j d = if i = j ∧ i < n then x else v.elD j d := by
  simp only [Vec.elD, Vec.set, List.getD_eq_getElem?_getD, List.getElem?_set, v.len]
  by_cases h : i = j
  · subst h
    by_cases h' : i < n
    · simp [h']
    · simp [h', List.getElem?_eq_none (l := v.toList) (i := i) (by rw [v.len]; omega)]
  · simp [h]

/-- Element `k` after elements `lo .. lo + m - 1` are replaced. -/
theorem Vec.elD_patch {α : Type} {n : Nat} (v : Vec α n) (lo m : Nat) (f : Nat → α) (d : α) (k : Nat) :
    (v.patch lo m f d).elD k d = if k < n ∧ lo ≤ k ∧ k < lo + m then f (k - lo) else v.elD k d := by
  rw [Vec.patch, Vec.elD_tab]
  by_cases h : k < n
  · simp [h]
  · simp [h, v.elD_of_le (Nat.le_of_not_lt h)]

/-- A bounded sum of the rules (R15) is the sum over a range. -/
theorem sumN_eq_sum {α : Type} [AddCommMonoid α] (f : Nat → α) (n : Nat) :
    sumN f n = ∑ i ∈ Finset.range n, f i := by
  induction n with
  | zero => rfl
  | succ n ih => rw [sumN, ih, Finset.sum_range_succ]

theorem gen_length {α : Type} (f : List α → Nat → α) (n : Nat) : (gen f n).length = n := by
  induction n with
  | zero => rfl
  | succ n ih => simp [gen, ih]

/-- The values generated first are kept. -/
theorem gen_prefix {α : Type} (f : List α → Nat → α) {k n : Nat} (h : k ≤ n) :
    (gen f n).take k = gen f k := by
  induction n with
  | zero => simp [Nat.le_zero.mp h, gen]
  | succ n ih =>
    rcases Nat.lt_or_ge n k with hk | hk
    · obtain rfl : k = n + 1 := by omega
      rw [List.take_of_length_le (by rw [gen_length])]
    · rw [gen, List.take_append_of_le_length (by rw [gen_length]; exact hk), ih hk]

/-- The recurrence: value `k` is computed from the `k` values before it. -/
theorem gen_getD {α : Type} (f : List α → Nat → α) {k n : Nat} (h : k < n) (d : α) :
    (gen f n).getD k d = f (gen f k) k := by
  have h1 : (gen f n)[k]? = ((gen f n).take (k + 1))[k]? := by
    rw [List.getElem?_take]; simp
  rw [List.getD_eq_getElem?_getD, h1, gen_prefix f h, gen]
  simp [gen_length]

/-- What an earlier value reads in a longer generation. -/
theorem gen_getD_of_lt {α : Type} (f : List α → Nat → α) {j k n : Nat} (hj : j < k) (hk : k ≤ n) (d : α) :
    (gen f k).getD j d = (gen f n).getD j d := by
  rw [gen_getD f hj, gen_getD f (lt_of_lt_of_le hj hk)]

end Sys2Proof
end

