-- ==== Sys2Proof/Laws/Kernel.lean ====
section
/-! SUPPORT. What the kernel functions compute: narrowing as integers, the rounding shift as rounding,
and what a first-found-wins search returns. -/

namespace Sys2Proof.Machine

/-- R111 as integers. -/
@[simp] theorem sat16_toInt (x : Int) : (sat16 x).toInt = min 32767 (max (-32768) x) := by
  rw [sat16, BitVec.toInt_ofInt_eq_self (by norm_num) (by norm_num) (by norm_num)]

/-- R112 as integers. -/
@[simp] theorem sat32_toInt (x : Int) : (sat32 x).toInt = min 2147483647 (max (-2147483648) x) := by
  rw [sat32, BitVec.toInt_ofInt_eq_self (by norm_num) (by norm_num) (by norm_num)]

/-- A word narrowed again is itself. -/
@[simp] theorem sat16_of_toInt (w : I16) : sat16 w.toInt = w := by
  have h1 := w.le_toInt
  have h2 := w.toInt_lt
  apply BitVec.eq_of_toInt_eq
  rw [sat16_toInt]
  norm_num at h1 h2
  omega

theorem toInt_bounds16 (w : I16) : -32768 ≤ w.toInt ∧ w.toInt ≤ 32767 := by
  have h1 := w.le_toInt
  have h2 := w.toInt_lt
  norm_num at h1 h2
  omega

theorem toInt_bounds32 (w : I32) : -2147483648 ≤ w.toInt ∧ w.toInt ≤ 2147483647 := by
  have h1 := w.le_toInt
  have h2 := w.toInt_lt
  norm_num at h1 h2
  omega

theorem rnd_eq_floor (y : Rat) : rnd y = ⌊y + 1 / 2⌋ := rfl

@[simp] theorem rnd_intCast (x : Int) : rnd (x : Rat) = x := by
  rw [rnd_eq_floor, Int.floor_eq_iff]; constructor <;> linarith

theorem shr_eq_floor (x : Int) (n : Nat) : shr x n = ⌊(x : Rat) / 2 ^ n⌋ := by
  have := Rat.floor_intCast_div_natCast x (2 ^ n)
  push_cast at this
  rw [this, shr]

/-- R113: the rounding shift is rounding to nearest of the exact quotient. -/
theorem shrR_eq_rnd (x : Int) (n : Nat) : shrR x n = rnd ((x : Rat) / 2 ^ n) := by
  unfold shrR
  split
  · next h => subst h; simp
  · next h =>
    obtain ⟨m, rfl⟩ : ∃ m, n = m + 1 := ⟨n - 1, by omega⟩
    have h2 : ((x : Rat) / 2 ^ (m + 1) + 1 / 2) = ((x + 2 ^ m : Int) : Rat) / ((2 ^ (m + 1) : Nat) : Rat) := by
      push_cast
      field_simp
      ring
    rw [rnd_eq_floor, h2, Rat.floor_intCast_div_natCast]
    push_cast
    simp

/-! ## Searches (R121) -/

section search
variable {α β : Type} [LinearOrder β] (score : α → β)

theorem keepMax_mem (best : α) (l : List α) : keepMax score best l = best ∨ keepMax score best l ∈ l := by
  induction l generalizing best with
  | nil => exact .inl rfl
  | cons x rest ih =>
    rw [keepMax]
    split
    · rcases ih x with h | h
      · exact .inr (by rw [h]; exact List.mem_cons_self)
      · exact .inr (List.mem_cons_of_mem _ h)
    · rcases ih best with h | h
      · exact .inl h
      · exact .inr (List.mem_cons_of_mem _ h)

theorem le_keepMax (best : α) (l : List α) : score best ≤ score (keepMax score best l) := by
  induction l generalizing best with
  | nil => exact le_refl _
  | cons x rest ih =>
    rw [keepMax]
    split
    · next h => exact le_trans (le_of_lt h) (ih x)
    · exact ih best

theorem le_keepMax_of_mem (best : α) {l : List α} {x : α} (hx : x ∈ l) :
    score x ≤ score (keepMax score best l) := by
  induction l generalizing best with
  | nil => cases hx
  | cons y rest ih =>
    rw [keepMax]
    rcases List.mem_cons.mp hx with rfl | hx
    · split
      · exact le_keepMax score _ rest
      · next h => exact le_trans (not_lt.mp h) (le_keepMax score _ rest)
    · split
      · exact ih y hx
      · exact ih best hx

/-- The search returns one of its candidates. -/
theorem argMax_mem (d : α) {l : List α} (h : l ≠ []) : argMax score d l ∈ l := by
  cases l with
  | nil => exact absurd rfl h
  | cons x rest =>
    rcases keepMax_mem score x rest with h | h
    · rw [argMax, h]; exact List.mem_cons_self
    · exact List.mem_cons_of_mem _ h

/-- No candidate scores more than the one returned. -/
theorem le_argMax (d : α) {l : List α} {x : α} (hx : x ∈ l) : score x ≤ score (argMax score d l) := by
  cases l with
  | nil => cases hx
  | cons y rest =>
    rcases List.mem_cons.mp hx with rfl | hx
    · exact le_keepMax score _ rest
    · exact le_keepMax_of_mem score _ hx

theorem keepMax_first (best : α) (l : List α) :
    keepMax score best l = best ∨
      ∃ l1 l2, l = l1 ++ keepMax score best l :: l2
        ∧ score best < score (keepMax score best l) ∧ ∀ x ∈ l1, score x < score (keepMax score best l) := by
  induction l generalizing best with
  | nil => exact .inl rfl
  | cons y rest ih =>
    rw [keepMax]
    split
    · next hlt =>
      rcases ih y with h | ⟨l1, l2, h, h1, h2⟩
      · exact .inr ⟨[], rest, by rw [h]; rfl, by rw [h]; exact hlt, by simp⟩
      · refine .inr ⟨y :: l1, l2, by rw [List.cons_append, ← h], lt_trans hlt h1, ?_⟩
        intro x hx
        rcases List.mem_cons.mp hx with rfl | hx
        · exact h1
        · exact h2 x hx
    · next hlt =>
      rcases ih best with h | ⟨l1, l2, h, h1, h2⟩
      · exact .inl h
      · refine .inr ⟨y :: l1, l2, by rw [List.cons_append, ← h], h1, ?_⟩
        intro x hx
        rcases List.mem_cons.mp hx with rfl | hx
        · exact lt_of_le_of_lt (not_lt.mp hlt) h1
        · exact h2 x hx

/-- First found wins: every candidate visited before the one returned scores less. -/
theorem argMax_first (d : α) {l : List α} (h : l ≠ []) :
    ∃ l1 l2, l = l1 ++ argMax score d l :: l2 ∧ ∀ x ∈ l1, score x < score (argMax score d l) := by
  cases l with
  | nil => exact absurd rfl h
  | cons y rest =>
    rcases keepMax_first score y rest with h | ⟨l1, l2, h, h1, h2⟩
    · exact ⟨[], rest, by rw [argMax, h]; rfl, by simp⟩
    · refine ⟨y :: l1, l2, by rw [argMax, List.cons_append, ← h], ?_⟩
      intro x hx
      rcases List.mem_cons.mp hx with rfl | hx
      · exact h1
      · exact h2 x hx

end search

/-- What `greatest` returns, for a predicate that holds at `lo` and is downward closed: the greatest of its
candidates with the predicate. -/
theorem greatest_spec (p : Int → Bool) (hp : ∀ a b, a ≤ b → p b = true → p a = true) (lo : Int) (n : Nat)
    (h : p lo = true) :
    lo ≤ greatest p lo n ∧ greatest p lo n < lo + 2 ^ n ∧ p (greatest p lo n) = true
      ∧ ∀ k, greatest p lo n < k → k < lo + 2 ^ n → p k = false := by
  induction n generalizing lo with
  | zero => refine ⟨le_refl _, by simp [greatest], h, fun k h1 h2 => ?_⟩; simp [greatest] at h1 h2; omega
  | succ n ih =>
    have h2 : (2 : Int) ^ (n + 1) = 2 ^ n + 2 ^ n := by ring
    have hpos : (0 : Int) < 2 ^ n := by positivity
    rw [greatest]
    split
    · next hq =>
      obtain ⟨a, b, c, d⟩ := ih _ hq
      exact ⟨by omega, by omega, c, fun k h3 h4 => d k h3 (by omega)⟩
    · next hq =>
      obtain ⟨a, b, c, d⟩ := ih _ h
      refine ⟨a, by omega, c, fun k h3 h4 => ?_⟩
      by_cases hk : k < lo + 2 ^ n
      · exact d k h3 hk
      · cases hpk : p k with
        | false => rfl
        | true => exact absurd (hp _ _ (by omega) hpk) hq

/-- What `nonneg` decides (R117): the sign of the real it approximates, whenever the last number of terms
its fuel allows tells the approximation from 0. -/
theorem nonneg_iff {approx err : Nat → Rat} {y : ℝ} (near : ∀ n, |(approx n : ℝ) - y| ≤ (err n : ℝ))
    (fuel n : Nat) (tells : err (2 ^ fuel * n) < |approx (2 ^ fuel * n)|) :
    nonneg approx err fuel n = true ↔ 0 ≤ y := by
  have decided : ∀ m, err m < |approx m| → (0 ≤ approx m ↔ 0 ≤ y) := by
    intro m h
    have h' : (err m : ℝ) < |(approx m : ℝ)| := by exact_mod_cast h
    have hm := abs_le.mp (near m)
    rw [← Rat.cast_nonneg (K := ℝ)]
    rcases abs_cases (approx m : ℝ) with ⟨e, _⟩ | ⟨e, _⟩ <;> rw [e] at h' <;> constructor <;> intro <;> linarith
  induction fuel generalizing n with
  | zero => simpa [nonneg] using decided n (by simpa using tells)
  | succ fuel ih =>
    rw [nonneg]
    split
    · simpa using decided n ‹_›
    · exact ih (2 * n) (by simpa [pow_succ, mul_assoc] using tells)

end Sys2Proof.Machine
end

