-- ==== Sys2Proof/Laws/State.lean ====
section
/-! SUPPORT. What each named update of the state leaves in each field: one lemma per field, so that no
proof unfolds a record update; and what a register holds after another, or itself, is replaced. -/

namespace Sys2Proof.Machine

/-! ## Registers -/

/-- The register that was replaced. -/
@[simp] theorem Regs.get_put_self (rs : Regs) (reg : Reg) (v : RegVec reg.width reg.len) :
    (rs.put reg v).get reg = v := by
  cases reg <;> rfl

/-- Every other register. -/
theorem Regs.get_put_of_ne (rs : Regs) {reg reg' : Reg} (h : reg' ≠ reg) (v : RegVec reg.width reg.len) :
    (rs.put reg v).get reg' = rs.get reg' := by
  cases reg <;> cases reg' <;> first | rfl | exact absurd rfl h

/-- A register of the tabulated register file. -/
@[simp] theorem Regs.get_tab (f : (reg : Reg) → Nat → Option (BitVec reg.width)) (reg : Reg) :
    (Regs.tab f).get reg = Vec.tab (f reg) := by
  cases reg <;> rfl

/-- A cleared register has no defined element. -/
@[simp] theorem Regs.elD_undef (reg : Reg) (i : Nat) : (Regs.undef.get reg).elD i none = none := by
  rw [Regs.undef, Regs.get_tab]; simp

/-! ## A closed channel -/

section
variable (s : State)
@[simp] theorem State.closed_isOpen : s.closed.isOpen = false := by
  simp [State.closed, State.isOpen, fctlClosed]
@[simp] theorem State.closed_port : s.closed.port = s.port := rfl
@[simp] theorem State.closed_closes : s.closed.closes = s.closes + 1 := rfl
end

/-! ## What the accessors of `FCTL` depend on -/

theorem State.isOpen_congr {s t : State} (h : t.fctl = s.fctl) : t.isOpen = s.isOpen := by
  rw [State.isOpen, h, State.isOpen]
theorem State.role_congr {s t : State} (h : t.fctl = s.fctl) : t.role = s.role := by
  rw [State.role, h, State.role]
theorem State.bfi_congr {s t : State} (h : t.fctl = s.fctl) : t.bfi = s.bfi := by
  rw [State.bfi, h, State.bfi]
theorem State.pe_congr {s t : State} (h : t.fctl = s.fctl) : t.pe = s.pe := by
  rw [State.pe, h, State.pe]
theorem State.inFrame_congr {s t : State} (h : t.fctl = s.fctl) : t.inFrame = s.inFrame := by
  rw [State.inFrame, h, State.inFrame]
theorem State.flag_congr {s t : State} (h : t.fstat = s.fstat) (f : StatFlag) : t.flag f = s.flag f := by
  rw [State.flag, h, State.flag]

/-! ## Single bits -/

/-- The bit written holds the value, every other bit is kept. -/
theorem getLsbD_setBit (w : BitVec 16) {k : Nat} (hk : k < 16) (b : Bool) (j : Nat) :
    (setBit w k b).getLsbD j = if j = k then b else w.getLsbD j := by
  unfold setBit
  by_cases hj : j < 16
  · cases b <;> by_cases h : j = k <;> simp [h, hj, hk] <;> omega
  · have : j ≠ k := by omega
    rw [if_neg this, BitVec.getLsbD_of_ge _ _ (by omega), BitVec.getLsbD_of_ge _ _ (by omega)]

/-- The flag just written. -/
@[simp] theorem State.flag_writeFlag_self (s : State) (f : StatFlag) (b : Bool) :
    (s.writeFlag f b).flag f = b := by
  rw [State.flag, State.writeFlag, getLsbD_setBit _ (by cases f <;> decide), if_pos rfl]

/-- The other bits of `FSTAT` after a flag is written. -/
theorem State.getLsbD_writeFlag (s : State) (f : StatFlag) (b : Bool) {k : Nat} (h : k ≠ f.bit) :
    (s.writeFlag f b).fstat.getLsbD k = s.fstat.getLsbD k := by
  rw [State.writeFlag, getLsbD_setBit _ (by cases f <;> decide), if_neg h]

/-- A flag that is only ever set: set before, or set now. -/
@[simp] theorem State.flag_raiseFlag_self (s : State) (f : StatFlag) (cond : Bool) :
    (s.raiseFlag f cond).flag f = (s.flag f || cond) := by
  unfold State.raiseFlag
  cases cond <;> simp

/-- The other bits of `FSTAT` after a flag is raised. -/
theorem State.getLsbD_raiseFlag (s : State) (f : StatFlag) (cond : Bool) {k : Nat} (h : k ≠ f.bit) :
    (s.raiseFlag f cond).fstat.getLsbD k = s.fstat.getLsbD k := by
  unfold State.raiseFlag
  split
  · exact s.getLsbD_writeFlag f true h
  · rfl

/-! ## The updates, field by field -/

/-! `State.setAll` -/

section
variable (s : State) (reg : Reg) (f : Nat → BitVec reg.width)
@[simp] theorem State.setAll_fctl : (s.setAll reg f).fctl = s.fctl := rfl
@[simp] theorem State.setAll_fstat : (s.setAll reg f).fstat = s.fstat := rfl
@[simp] theorem State.setAll_enc : (s.setAll reg f).enc = s.enc := rfl
@[simp] theorem State.setAll_dec : (s.setAll reg f).dec = s.dec := rfl
@[simp] theorem State.setAll_bufs : (s.setAll reg f).bufs = s.bufs := rfl
@[simp] theorem State.setAll_port : (s.setAll reg f).port = s.port := rfl
@[simp] theorem State.setAll_closes : (s.setAll reg f).closes = s.closes := rfl
end

/-! `State.setFrom` -/

section
variable (s : State) (reg : Reg) (i n : Nat) (f : Nat → BitVec reg.width)
@[simp] theorem State.setFrom_fctl : (s.setFrom reg i n f).fctl = s.fctl := rfl
@[simp] theorem State.setFrom_fstat : (s.setFrom reg i n f).fstat = s.fstat := rfl
@[simp] theorem State.setFrom_enc : (s.setFrom reg i n f).enc = s.enc := rfl
@[simp] theorem State.setFrom_dec : (s.setFrom reg i n f).dec = s.dec := rfl
@[simp] theorem State.setFrom_bufs : (s.setFrom reg i n f).bufs = s.bufs := rfl
@[simp] theorem State.setFrom_port : (s.setFrom reg i n f).port = s.port := rfl
@[simp] theorem State.setFrom_closes : (s.setFrom reg i n f).closes = s.closes := rfl
end

/-! `State.fillSubframe` -/

section
variable (s : State) (b : Buf) (sf : Subframe) (f : Buffers → Nat → I16)
@[simp] theorem State.fillSubframe_fctl : (s.fillSubframe b sf f).fctl = s.fctl := rfl
@[simp] theorem State.fillSubframe_fstat : (s.fillSubframe b sf f).fstat = s.fstat := rfl
@[simp] theorem State.fillSubframe_regs : (s.fillSubframe b sf f).regs = s.regs := rfl
@[simp] theorem State.fillSubframe_enc : (s.fillSubframe b sf f).enc = s.enc := rfl
@[simp] theorem State.fillSubframe_dec : (s.fillSubframe b sf f).dec = s.dec := rfl
@[simp] theorem State.fillSubframe_port : (s.fillSubframe b sf f).port = s.port := rfl
@[simp] theorem State.fillSubframe_closes : (s.fillSubframe b sf f).closes = s.closes := rfl
end

/-! `State.writeFlag` -/

section
variable (s : State) (f : StatFlag) (b : Bool)
@[simp] theorem State.writeFlag_fctl : (s.writeFlag f b).fctl = s.fctl := rfl
@[simp] theorem State.writeFlag_regs : (s.writeFlag f b).regs = s.regs := rfl
@[simp] theorem State.writeFlag_enc : (s.writeFlag f b).enc = s.enc := rfl
@[simp] theorem State.writeFlag_dec : (s.writeFlag f b).dec = s.dec := rfl
@[simp] theorem State.writeFlag_bufs : (s.writeFlag f b).bufs = s.bufs := rfl
@[simp] theorem State.writeFlag_port : (s.writeFlag f b).port = s.port := rfl
@[simp] theorem State.writeFlag_closes : (s.writeFlag f b).closes = s.closes := rfl
end

/-! `State.raiseFlag` -/

section
variable (s : State) (f : StatFlag) (b : Bool)
@[simp] theorem State.raiseFlag_fctl : (s.raiseFlag f b).fctl = s.fctl := by
  unfold State.raiseFlag; split <;> rfl
@[simp] theorem State.raiseFlag_regs : (s.raiseFlag f b).regs = s.regs := by
  unfold State.raiseFlag; split <;> rfl
@[simp] theorem State.raiseFlag_enc : (s.raiseFlag f b).enc = s.enc := by
  unfold State.raiseFlag; split <;> rfl
@[simp] theorem State.raiseFlag_dec : (s.raiseFlag f b).dec = s.dec := by
  unfold State.raiseFlag; split <;> rfl
@[simp] theorem State.raiseFlag_bufs : (s.raiseFlag f b).bufs = s.bufs := by
  unfold State.raiseFlag; split <;> rfl
@[simp] theorem State.raiseFlag_port : (s.raiseFlag f b).port = s.port := by
  unfold State.raiseFlag; split <;> rfl
@[simp] theorem State.raiseFlag_closes : (s.raiseFlag f b).closes = s.closes := by
  unfold State.raiseFlag; split <;> rfl
end

/-! `State.setQlspPrev` -/

section
variable (s : State) (f : Nat → I16)
@[simp] theorem State.setQlspPrev_fctl : (s.setQlspPrev f).fctl = s.fctl := by
  unfold State.setQlspPrev; split <;> rfl
@[simp] theorem State.setQlspPrev_fstat : (s.setQlspPrev f).fstat = s.fstat := by
  unfold State.setQlspPrev; split <;> rfl
@[simp] theorem State.setQlspPrev_regs : (s.setQlspPrev f).regs = s.regs := by
  unfold State.setQlspPrev; split <;> rfl
@[simp] theorem State.setQlspPrev_bufs : (s.setQlspPrev f).bufs = s.bufs := by
  unfold State.setQlspPrev; split <;> rfl
@[simp] theorem State.setQlspPrev_port : (s.setQlspPrev f).port = s.port := by
  unfold State.setQlspPrev; split <;> rfl
@[simp] theorem State.setQlspPrev_closes : (s.setQlspPrev f).closes = s.closes := by
  unfold State.setQlspPrev; split <;> rfl
end

/-! `State.setPitch` -/

section
variable (s : State) (lag f : Int) (v : List I16)
@[simp] theorem State.setPitch_fctl : (s.setPitch lag f v).fctl = s.fctl := rfl
@[simp] theorem State.setPitch_fstat : (s.setPitch lag f v).fstat = s.fstat := rfl
@[simp] theorem State.setPitch_enc : (s.setPitch lag f v).enc = s.enc := rfl
@[simp] theorem State.setPitch_dec : (s.setPitch lag f v).dec = s.dec := rfl
@[simp] theorem State.setPitch_bufs : (s.setPitch lag f v).bufs = s.bufs := rfl
@[simp] theorem State.setPitch_port : (s.setPitch lag f v).port = s.port := rfl
@[simp] theorem State.setPitch_closes : (s.setPitch lag f v).closes = s.closes := rfl
end

/-! `State.setPitchLast` -/

section
variable (s : State) (v : I16)
@[simp] theorem State.setPitchLast_fctl : (s.setPitchLast v).fctl = s.fctl := rfl
@[simp] theorem State.setPitchLast_fstat : (s.setPitchLast v).fstat = s.fstat := rfl
@[simp] theorem State.setPitchLast_regs : (s.setPitchLast v).regs = s.regs := rfl
@[simp] theorem State.setPitchLast_enc : (s.setPitchLast v).enc = s.enc := rfl
@[simp] theorem State.setPitchLast_bufs : (s.setPitchLast v).bufs = s.bufs := rfl
@[simp] theorem State.setPitchLast_port : (s.setPitchLast v).port = s.port := rfl
@[simp] theorem State.setPitchLast_closes : (s.setPitchLast v).closes = s.closes := rfl
end

/-! `State.setWindow` -/

section
variable (c : Config) (s : State) (lag : Int)
@[simp] theorem State.setWindow_fctl : (State.setWindow c s lag).fctl = s.fctl := rfl
@[simp] theorem State.setWindow_fstat : (State.setWindow c s lag).fstat = s.fstat := rfl
@[simp] theorem State.setWindow_enc : (State.setWindow c s lag).enc = s.enc := rfl
@[simp] theorem State.setWindow_dec : (State.setWindow c s lag).dec = s.dec := rfl
@[simp] theorem State.setWindow_bufs : (State.setWindow c s lag).bufs = s.bufs := rfl
@[simp] theorem State.setWindow_port : (State.setWindow c s lag).port = s.port := rfl
@[simp] theorem State.setWindow_closes : (State.setWindow c s lag).closes = s.closes := rfl
end

/-! `State.setGains` -/

section
variable (s : State) (p : I16) (g : I32)
@[simp] theorem State.setGains_fctl : (s.setGains p g).fctl = s.fctl := rfl
@[simp] theorem State.setGains_fstat : (s.setGains p g).fstat = s.fstat := rfl
@[simp] theorem State.setGains_enc : (s.setGains p g).enc = s.enc := rfl
@[simp] theorem State.setGains_dec : (s.setGains p g).dec = s.dec := rfl
@[simp] theorem State.setGains_bufs : (s.setGains p g).bufs = s.bufs := rfl
@[simp] theorem State.setGains_port : (s.setGains p g).port = s.port := rfl
@[simp] theorem State.setGains_closes : (s.setGains p g).closes = s.closes := rfl
end

/-! `State.setDecGains` -/

section
variable (c : Config) (s : State) (p : I16) (g : I32) (u : I16)
@[simp] theorem State.setDecGains_fctl : (State.setDecGains c s p g u).fctl = s.fctl := rfl
@[simp] theorem State.setDecGains_fstat : (State.setDecGains c s p g u).fstat = s.fstat := rfl
@[simp] theorem State.setDecGains_enc : (State.setDecGains c s p g u).enc = s.enc := rfl
@[simp] theorem State.setDecGains_bufs : (State.setDecGains c s p g u).bufs = s.bufs := rfl
@[simp] theorem State.setDecGains_port : (State.setDecGains c s p g u).port = s.port := rfl
@[simp] theorem State.setDecGains_closes : (State.setDecGains c s p g u).closes = s.closes := rfl
end

/-! `State.pushEncGpe` -/

section
variable (s : State) (u : I16)
@[simp] theorem State.pushEncGpe_fctl : (s.pushEncGpe u).fctl = s.fctl := rfl
@[simp] theorem State.pushEncGpe_fstat : (s.pushEncGpe u).fstat = s.fstat := rfl
@[simp] theorem State.pushEncGpe_regs : (s.pushEncGpe u).regs = s.regs := rfl
@[simp] theorem State.pushEncGpe_dec : (s.pushEncGpe u).dec = s.dec := rfl
@[simp] theorem State.pushEncGpe_bufs : (s.pushEncGpe u).bufs = s.bufs := rfl
@[simp] theorem State.pushEncGpe_port : (s.pushEncGpe u).port = s.port := rfl
@[simp] theorem State.pushEncGpe_closes : (s.pushEncGpe u).closes = s.closes := rfl
end

/-! `State.recordGp` -/

section
variable (s : State)
@[simp] theorem State.recordGp_fctl : (s.recordGp).fctl = s.fctl := by
  unfold State.recordGp; split <;> rfl
@[simp] theorem State.recordGp_fstat : (s.recordGp).fstat = s.fstat := by
  unfold State.recordGp; split <;> rfl
@[simp] theorem State.recordGp_regs : (s.recordGp).regs = s.regs := by
  unfold State.recordGp; split <;> rfl
@[simp] theorem State.recordGp_dec : (s.recordGp).dec = s.dec := by
  unfold State.recordGp; split <;> rfl
@[simp] theorem State.recordGp_bufs : (s.recordGp).bufs = s.bufs := by
  unfold State.recordGp; split <;> rfl
@[simp] theorem State.recordGp_port : (s.recordGp).port = s.port := by
  unfold State.recordGp; split <;> rfl
@[simp] theorem State.recordGp_closes : (s.recordGp).closes = s.closes := by
  unfold State.recordGp; split <;> rfl
end

/-! ## Channel state of the role -/

/-- `S.QLSP_PREV` after it is written, on either role. -/
theorem State.qlspPrev_setQlspPrev (s : State) (f : Nat → I16) {i : Nat} (h : i < 10) :
    (s.setQlspPrev f).qlspPrev i = (f i).toInt := by
  cases hr : s.role <;> simp [State.qlspPrev, State.setQlspPrev, hr, h] <;>
    simp [State.role] at hr <;> simp [State.role, hr]

/-- The history after a push: the value pushed first, then the three most recent of before. -/
theorem elD_histPushed (hist : Vec I16 4) (u : I16) :
    (histPushed hist u).elD 0 0 = u ∧ ∀ k < 3, (histPushed hist u).elD (k + 1) 0 = hist.elD k 0 := by
  refine ⟨by simp [histPushed], fun k hk => ?_⟩
  simp [histPushed]; omega

/-- The codeword history after a push: the codeword first, then the three most recent rows of before. -/
theorem elD_lsfHistPushed (hist : Vec I16 40) (cw : Nat → I16) :
    (∀ i < 10, (lsfHistPushed hist cw).elD i 0 = cw i)
      ∧ ∀ i < 30, (lsfHistPushed hist cw).elD (10 + i) 0 = hist.elD i 0 := by
  refine ⟨fun i hi => ?_, fun i hi => ?_⟩
  · simp [lsfHistPushed, hi]; omega
  · simp [lsfHistPushed]; omega

end Sys2Proof.Machine
end

