-- ==== Sys2Proof/Laws/Ops.lean ====
section
/-! SUPPORT. What each shared operation can do, said once: the admission checks, the reads and writes of
operand registers, and the reads and writes of signal buffers, which keep the buffers' form. -/

namespace Sys2Proof.Machine

/-! ## `CFG.num` -/

/-- Under the machine's configuration a command leaves what the convention gives. -/
@[simp] theorem realised_cfg (i : Instr) (s ideal : State) : realised cfg i s ideal = ideal := rfl

section
variable (c : Config) (i : Instr) (s ideal : State)
/-- No realisation writes `FCTL` or the model's own fields. -/
@[simp] theorem realised_fctl : (realised c i s ideal).fctl = ideal.fctl := by unfold realised; split <;> rfl
@[simp] theorem realised_port : (realised c i s ideal).port = ideal.port := by unfold realised; split <;> rfl
@[simp] theorem realised_closes : (realised c i s ideal).closes = ideal.closes := by
  unfold realised; split <;> rfl
end

/-! ## Admission -/

/-- A command that passes its checks does what its body does. -/
theorem checked_of_ready {roles : RoleSet} {needs : List Need} {inRange : Bool} {s : State} {body : Result}
    (h : s.ready roles needs = true) (hr : inRange = true) : checked roles needs inRange s body = body := by
  simp only [State.ready, Bool.and_eq_true] at h
  simp [checked, h, hr]

/-- A command completes exactly where its checks pass and its body completes. -/
theorem checked_eq_next {roles : RoleSet} {needs : List Need} {inRange : Bool} {s t : State} {body : Result} :
    checked roles needs inRange s body = .next t
      ↔ s.ready roles needs = true ∧ inRange = true ∧ body = .next t := by
  unfold checked State.ready
  cases s.isOpen <;> cases roles.has s.role <;> cases s.inFrame <;> cases s.regs.meetsAll needs <;>
    cases inRange <;> simp

/-- The checks read `FCTL` and the registers alone; with equal outcomes of both, they pass or refuse alike. -/
theorem checked_congr {roles : RoleSet} {needs : List Need} {r r' : Bool} {s s' : State} {body body' : Result}
    (hf : s'.fctl = s.fctl) (hm : s'.regs.meetsAll needs = s.regs.meetsAll needs) (hr : r' = r)
    (hb : body' = body) : checked roles needs r' s' body' = checked roles needs r s body := by
  rw [checked, checked, State.isOpen_congr hf, State.role_congr hf, State.inFrame_congr hf, hm, hr, hb]

/-- The checks that fail, in the order of R358. -/
theorem checked_eq_refused {roles : RoleSet} {needs : List Need} {inRange : Bool} {s : State} {body : Result}
    {why : Refusal} (h : checked roles needs inRange s body = .refused why) :
    (s.isOpen = false ∧ why = .channelClosed)
    ∨ (s.isOpen = true ∧ roles.has s.role = false ∧ why = .wrongRole)
    ∨ (s.isOpen = true ∧ roles.has s.role = true ∧ s.inFrame = false ∧ why = .notInFrame)
    ∨ (s.isOpen = true ∧ roles.has s.role = true ∧ s.inFrame = true ∧ s.regs.meetsAll needs = false
        ∧ why = .undefinedOperand)
    ∨ (s.ready roles needs = true ∧ inRange = false ∧ why = .parameterRange)
    ∨ (s.ready roles needs = true ∧ inRange = true ∧ body = .refused why) := by
  revert h
  unfold checked State.ready
  cases s.isOpen <;> cases roles.has s.role <;> cases s.inFrame <;> cases s.regs.meetsAll needs <;>
    cases inRange <;> simp [eq_comm]

/-- An operation-specific condition that holds is passed, one that fails refuses. -/
theorem require_eq_next {ok : Bool} {why : Refusal} {body : Result} {t : State} :
    require ok why body = .next t ↔ ok = true ∧ body = .next t := by
  unfold require; cases ok <;> simp

/-! ## Operand registers -/

/-- The elements of a register written whole. -/
theorem Regs.elD_setAll (rs : Regs) (reg : Reg) (f : Nat → BitVec reg.width) (i : Nat) :
    ((rs.setAll reg f).get reg).elD i none = if i < reg.len then some (f i) else none := by
  rw [Regs.setAll, Regs.get_put_self, Vec.elD_tab]

/-- The other registers. -/
theorem Regs.get_setAll_of_ne (rs : Regs) {reg reg' : Reg} (h : reg' ≠ reg) (f : Nat → BitVec reg.width) :
    (rs.setAll reg f).get reg' = rs.get reg' :=
  rs.get_put_of_ne h _

/-- The elements of a register written in part. -/
theorem Regs.elD_setFrom (rs : Regs) (reg : Reg) (lo m : Nat) (f : Nat → BitVec reg.width) (i : Nat) :
    ((rs.setFrom reg lo m f).get reg).elD i none
      = if i < reg.len ∧ lo ≤ i ∧ i < lo + m then some (f (i - lo)) else (rs.get reg).elD i none := by
  rw [Regs.setFrom, Regs.get_put_self, Vec.elD_patch]

/-- The other registers. -/
theorem Regs.get_setFrom_of_ne (rs : Regs) {reg reg' : Reg} (h : reg' ≠ reg) (lo m : Nat)
    (f : Nat → BitVec reg.width) : (rs.setFrom reg lo m f).get reg' = rs.get reg' :=
  rs.get_put_of_ne h _

/-- The three reads of an element depend on its value and mark alone. -/
theorem Regs.read_congr {rs rs' : Regs} {reg : Reg} {i : Nat}
    (h : (rs'.get reg).elD i none = (rs.get reg).elD i none) :
    rs'.int reg i = rs.int reg i ∧ rs'.nat reg i = rs.nat reg i
      ∧ rs'.definedAt reg i = rs.definedAt reg i := by
  simp only [Regs.int, Regs.nat, Regs.definedAt, h, and_self]

/-- What an element holds after a word is written to it. -/
theorem Regs.read_of_some {rs : Regs} {reg : Reg} {i : Nat} {w : BitVec reg.width}
    (h : (rs.get reg).elD i none = some w) :
    rs.int reg i = w.toInt ∧ rs.nat reg i = w.toNat ∧ rs.definedAt reg i = true := by
  simp only [Regs.int, Regs.nat, Regs.definedAt, h, Option.isSome_some, and_self]

/-- A need is met when each of its elements is defined. -/
theorem Regs.meets_iff (rs : Regs) (need : Need) :
    rs.meets need = true
      ↔ ∀ i, need.first ≤ i → i < need.first + need.count → rs.definedAt need.reg i = true := by
  simp only [Regs.meets, List.all_eq_true, List.mem_range'_1, and_imp]

/-- The elements a ready command reads are defined. -/
theorem State.ready_iff (s : State) (roles : RoleSet) (needs : List Need) :
    s.ready roles needs = true ↔ s.isOpen = true ∧ roles.has s.role = true ∧ s.inFrame = true
      ∧ ∀ need ∈ needs, s.regs.meets need = true := by
  simp only [State.ready, Regs.meetsAll, Bool.and_eq_true, List.all_eq_true, and_assoc]

/-! ## Signal buffers -/

/-- The buffers of every state have their form: one sample per index of R60. -/
theorem Buffers.wf_all (bs : Buffers) : bs.wf := by
  intro b
  cases b <;> simp [Buffers.samples, Vec.len, Buf.lo, Buf.hi]

/-- Every memory operation keeps the form. -/
theorem Buffers.wf_write (bs : Buffers) (b : Buf) (i : Int) (v : I16) (_ : bs.wf) : (bs.write b i v).wf :=
  Buffers.wf_all _

/-- Every memory operation keeps the form. -/
theorem Buffers.wf_fill (bs : Buffers) (b : Buf) (base : Int) (f : Buffers → Nat → I16) (n : Nat)
    (_ : bs.wf) : (Buffers.fill b base f n bs).wf :=
  Buffers.wf_all _

/-- Every memory operation keeps the form. -/
theorem Buffers.wf_shiftFrame (bs : Buffers) (b : Buf) (_ : bs.wf) : (bs.shiftFrame b).wf :=
  Buffers.wf_all _

/-- Every memory operation keeps the form. -/
theorem Buffers.wf_restore (bs saved : Buffers) (role : Role) (_ : bs.wf) (_ : saved.wf) :
    (bs.restore saved role).wf :=
  Buffers.wf_all _

/-- The buffers after reset have it. -/
theorem Buffers.wf_reset : State.reset.bufs.wf := Buffers.wf_all _

/-- Every index of a buffer has a sample, and no other index has. -/
theorem Buffers.read_isSome (bs : Buffers) (b : Buf) (i : Int) : (bs.read b i).isSome = b.inBounds i := by
  unfold Buffers.read
  by_cases h : b.inBounds i = true
  · have hw := bs.wf_all b
    rw [if_pos h, h]
    simp only [Buf.inBounds, decide_eq_true_eq] at h
    rw [Option.isSome_iff_exists]
    exact ⟨_, List.getElem?_eq_getElem (by omega)⟩
  · rw [if_neg h, Bool.not_eq_true _ |>.mp h]; rfl

/-- The samples of a buffer after one is written. -/
theorem Buffers.samples_write (bs : Buffers) (b b' : Buf) (i : Int) (v : I16) :
    (bs.write b i v).samples b'
      = if b' = b ∧ b.inBounds i = true then (bs.samples b).set (i - b.lo).toNat v else bs.samples b' := by
  unfold Buffers.write
  by_cases h : b.inBounds i = true
  · rw [if_pos h]; cases b <;> cases b' <;> simp [h, Buffers.samples, Vec.set]
  · rw [if_neg h, if_neg (fun hh => h hh.2)]

/-- Reading after a write: the value at the sample written, the old value everywhere else. -/
theorem Buffers.read_write (bs : Buffers) (b b' : Buf) (i j : Int) (v : I16) :
    (bs.write b i v).read b' j
      = if b' = b ∧ j = i ∧ b.inBounds i = true then some v else bs.read b' j := by
  have hw := bs.wf_all b
  unfold Buffers.read
  rw [Buffers.samples_write]
  by_cases hb : b' = b
  · subst hb
    by_cases hi : b'.inBounds i = true
    · by_cases hj : b'.inBounds j = true
      · simp only [hi, hj, and_true, if_true, true_and]
        simp only [Buf.inBounds, decide_eq_true_eq] at hi hj
        rw [List.getElem?_set]
        by_cases hij : j = i
        · subst hij; rw [if_pos rfl, if_pos rfl, if_pos (by omega)]
        · rw [if_neg hij, if_neg (by omega)]
      · have : j ≠ i := by rintro rfl; exact hj hi
        simp [hj, this]
    · simp [hi]
  · simp [hb]

/-- The short form of a read after a write. -/
theorem Buffers.word_write (bs : Buffers) (b b' : Buf) (i j : Int) (v : I16) :
    (bs.write b i v).word b' j
      = if b' = b ∧ j = i ∧ b.inBounds i = true then v else bs.word b' j := by
  unfold Buffers.word
  rw [Buffers.read_write]
  split <;> rfl

/-- A run of writes leaves every sample outside it as it was. -/
theorem Buffers.read_fill_of_outside (b : Buf) (base : Int) (f : Buffers → Nat → I16) (n : Nat)
    (bs : Buffers) {b' : Buf} {j : Int} (h : ¬(b' = b ∧ base ≤ j ∧ j < base + n)) :
    (Buffers.fill b base f n bs).read b' j = bs.read b' j := by
  induction n with
  | zero => rfl
  | succ n ih =>
    rw [Buffers.fill, Buffers.read_write, if_neg, ih]
    · rintro ⟨h1, h2, h3⟩; exact h ⟨h1, h2, by push_cast; omega⟩
    · rintro ⟨h1, h2, -⟩; exact h ⟨h1, by omega, by push_cast; omega⟩

/-- The samples of a run of writes: sample `k` is computed on the buffers with the `k` samples before it
already written (R62). -/
theorem Buffers.read_fill (b : Buf) (base : Int) (f : Buffers → Nat → I16) {n k : Nat} (bs : Buffers)
    (hk : k < n) (hb : b.inBounds (base + k) = true) :
    (Buffers.fill b base f n bs).read b (base + k) = some (f (Buffers.fill b base f k bs) k) := by
  induction n with
  | zero => omega
  | succ n ih =>
    rw [Buffers.fill, Buffers.read_write]
    by_cases h : k = n
    · subst h; rw [if_pos ⟨rfl, rfl, hb⟩]
    · rw [if_neg, ih (by omega)]
      rintro ⟨-, h2, -⟩; omega

/-- The short form of the same, as an integer. -/
theorem Buffers.at_fill (b : Buf) (base : Int) (f : Buffers → Nat → I16) {n k : Nat} (bs : Buffers)
    (hk : k < n) (hb : b.inBounds (base + k) = true) :
    (Buffers.fill b base f n bs).at b (base + k) = (f (Buffers.fill b base f k bs) k).toInt := by
  rw [Buffers.at, Buffers.word, Buffers.read_fill b base f bs hk hb, Option.getD_some]

/-- A run of writes reads, at the samples before `k`, like its own beginning of length `k`. -/
theorem Buffers.read_fill_prefix (b : Buf) (base : Int) (f : Buffers → Nat → I16) {n k : Nat}
    (bs : Buffers) (hk : k ≤ n) {b' : Buf} {j : Int} (h : b' = b → j < base + k) :
    (Buffers.fill b base f n bs).read b' j = (Buffers.fill b base f k bs).read b' j := by
  induction n with
  | zero => rw [Nat.le_zero.mp hk]
  | succ n ih =>
    rcases Nat.lt_or_ge n k with hn | hn
    · rw [show k = n + 1 by omega]
    · rw [Buffers.fill, Buffers.read_write, if_neg, ih hn]
      rintro ⟨h1, h2, -⟩
      have := h h1
      omega

/-- The short forms of equal reads are equal. -/
theorem Buffers.at_congr {bs bs' : Buffers} {b : Buf} {i : Int} (h : bs'.read b i = bs.read b i) :
    bs'.at b i = bs.at b i := by
  rw [Buffers.at, Buffers.at, Buffers.word, Buffers.word, h]

/-- Samples of a subframe are samples of every buffer. -/
theorem Buf.inBounds_subframe (b : Buf) (sf : Subframe) {n : Nat} (h : n < 40) :
    b.inBounds (sfBase sf + n) = true := by
  have hlo : b.lo ≤ 0 := by cases b <;> decide
  have hhi : 79 ≤ b.hi := by cases b <;> decide
  have hsf : 0 ≤ sfBase sf ∧ sfBase sf ≤ 40 := by cases sf <;> decide
  rw [Buf.inBounds, decide_eq_true_eq]
  omega

/-- The shift of R63: the history of a buffer is its samples of 80 indices later, the rest is kept. -/
theorem Buffers.read_shiftFrame (bs : Buffers) (b : Buf) (b' : Buf) (i : Int) :
    (bs.shiftFrame b).read b' i
      = if b' = b ∧ b.lo ≤ i ∧ i < 0 then bs.read b (i + 80) else bs.read b' i := by
  have hlo : b.lo ≤ 0 := by cases b <;> decide
  have hhi : 79 ≤ b.hi := by cases b <;> decide
  unfold Buffers.shiftFrame
  split
  · next h =>
    obtain ⟨rfl, h1, h2⟩ := h
    obtain ⟨k, hk⟩ : ∃ k : Nat, i = b'.lo + k := ⟨(i - b'.lo).toNat, by omega⟩
    subst hk
    rw [Buffers.read_fill _ _ _ _ (by omega) (by simp only [Buf.inBounds, decide_eq_true_eq]; omega)]
    have hb : b'.inBounds (b'.lo + k + 80) = true := by
      simp only [Buf.inBounds, decide_eq_true_eq]; omega
    have hs := bs.read_isSome b' (b'.lo + k + 80)
    rw [hb, Option.isSome_iff_exists] at hs
    obtain ⟨v, hv⟩ := hs
    rw [Buffers.word, Buffers.read_fill_of_outside _ _ _ _ _ (by rintro ⟨-, -, h⟩; omega), hv]
    rfl
  · next h =>
    apply Buffers.read_fill_of_outside
    rintro ⟨h1, h2, h3⟩
    exact h ⟨h1, h2, by omega⟩

end Sys2Proof.Machine
end

