-- ==== Sys2Proof/Laws/PerInstr.lean ====
section
/-! SUPPORT. Statements made per instruction. `RowMatch`: the word the encoder writes agrees with the
instruction's row of spec/opcode_table.json, whose mask and match are written out here from the table. -/

namespace Sys2Proof.Laws

/-- The mask and the match of an instruction's row (R82). -/
def opcodeRow : Instr → BitVec 16 × BitVec 16
  | .chInit _ => (0xFEFF, 0x0400)
  | .chClose => (0xFFFF, 0x0800)
  | .frmBegin _ _ => (0xFE7F, 0x0C00)
  | .excMix _ => (0xFDFF, 0x1000)
  | .updFrm => (0xFFFF, 0x1400)
  | .lpWin => (0xFFFF, 0x2000)
  | .lpAcorr => (0xFFFF, 0x2400)
  | .lpLag => (0xFFFF, 0x2800)
  | .lpLev => (0xFFFF, 0x2C00)
  | .lspRoot => (0xFFFF, 0x4000)
  | .lspInterp => (0xFFFF, 0x4400)
  | .lspTolp _ => (0xFDFF, 0x4800)
  | .lsfStab => (0xFFFF, 0x4C00)
  | .lsfCos => (0xFFFF, 0x5000)
  | .lsfDec => (0xFFFF, 0x5400)
  | .pitCl _ => (0xFDFF, 0x6000)
  | .pitInterp _ => (0xFDFF, 0x6400)
  | .pitDec _ => (0xFDFF, 0x6800)
  | .pitConv => (0xFFFF, 0x6C00)
  | .fcbSearch _ => (0xFDFF, 0x8000)
  | .fcbDec _ => (0xFDFF, 0x8400)
  | .fcbConv => (0xFFFF, 0x8800)
  | .gainPred => (0xFFFF, 0xA000)
  | .gainQuant _ => (0xFDFF, 0xA400)
  | .gainDec _ => (0xFDFF, 0xA800)
  | .fltHp => (0xFFFF, 0xC000)
  | .fltSyn _ => (0xFDFF, 0xC400)
  | .fltRes _ => (0xFDFF, 0xC800)
  | .fltWgt _ => (0xFDFF, 0xCC00)
  | .pfRes _ => (0xFDFF, 0xE000)
  | .pfLt _ => (0xFDFF, 0xE400)
  | .pfTilt _ => (0xFDFF, 0xE800)
  | .pfSt _ => (0xFDFF, 0xEC00)
  | .pfAgc _ => (0xFDFF, 0xF000)

/-- The instruction is well formed and its word is one of its row. -/
def RowMatch.Statement (i : Instr) : Prop :=
  i.wellFormed = true ∧ encode i &&& (opcodeRow i).1 = (opcodeRow i).2

theorem RowMatch.chInit (role : Role) : RowMatch.Statement (.chInit role) := ⟨rfl, by cases role <;> decide⟩
theorem RowMatch.chClose : RowMatch.Statement .chClose := ⟨rfl, by decide⟩
theorem RowMatch.frmBegin (bfi pe : Bool) : RowMatch.Statement (.frmBegin bfi pe) := ⟨rfl, by cases bfi <;> cases pe <;> decide⟩
theorem RowMatch.excMix (sf : Subframe) : RowMatch.Statement (.excMix sf) := ⟨rfl, by cases sf <;> decide⟩
theorem RowMatch.updFrm : RowMatch.Statement .updFrm := ⟨rfl, by decide⟩
theorem RowMatch.lpWin : RowMatch.Statement .lpWin := ⟨rfl, by decide⟩
theorem RowMatch.lpAcorr : RowMatch.Statement .lpAcorr := ⟨rfl, by decide⟩
theorem RowMatch.lpLag : RowMatch.Statement .lpLag := ⟨rfl, by decide⟩
theorem RowMatch.lpLev : RowMatch.Statement .lpLev := ⟨rfl, by decide⟩
theorem RowMatch.lspRoot : RowMatch.Statement .lspRoot := ⟨rfl, by decide⟩
theorem RowMatch.lspInterp : RowMatch.Statement .lspInterp := ⟨rfl, by decide⟩
theorem RowMatch.lspTolp (sf : Subframe) : RowMatch.Statement (.lspTolp sf) := ⟨rfl, by cases sf <;> decide⟩
theorem RowMatch.lsfStab : RowMatch.Statement .lsfStab := ⟨rfl, by decide⟩
theorem RowMatch.lsfCos : RowMatch.Statement .lsfCos := ⟨rfl, by decide⟩
theorem RowMatch.lsfDec : RowMatch.Statement .lsfDec := ⟨rfl, by decide⟩
theorem RowMatch.pitCl (sf : Subframe) : RowMatch.Statement (.pitCl sf) := ⟨rfl, by cases sf <;> decide⟩
theorem RowMatch.pitInterp (sf : Subframe) : RowMatch.Statement (.pitInterp sf) := ⟨rfl, by cases sf <;> decide⟩
theorem RowMatch.pitDec (sf : Subframe) : RowMatch.Statement (.pitDec sf) := ⟨rfl, by cases sf <;> decide⟩
theorem RowMatch.pitConv : RowMatch.Statement .pitConv := ⟨rfl, by decide⟩
theorem RowMatch.fcbSearch (sf : Subframe) : RowMatch.Statement (.fcbSearch sf) := ⟨rfl, by cases sf <;> decide⟩
theorem RowMatch.fcbDec (sf : Subframe) : RowMatch.Statement (.fcbDec sf) := ⟨rfl, by cases sf <;> decide⟩
theorem RowMatch.fcbConv : RowMatch.Statement .fcbConv := ⟨rfl, by decide⟩
theorem RowMatch.gainPred : RowMatch.Statement .gainPred := ⟨rfl, by decide⟩
theorem RowMatch.gainQuant (sf : Subframe) : RowMatch.Statement (.gainQuant sf) := ⟨rfl, by cases sf <;> decide⟩
theorem RowMatch.gainDec (sf : Subframe) : RowMatch.Statement (.gainDec sf) := ⟨rfl, by cases sf <;> decide⟩
theorem RowMatch.fltHp : RowMatch.Statement .fltHp := ⟨rfl, by decide⟩
theorem RowMatch.fltSyn (sf : Subframe) : RowMatch.Statement (.fltSyn sf) := ⟨rfl, by cases sf <;> decide⟩
theorem RowMatch.fltRes (sf : Subframe) : RowMatch.Statement (.fltRes sf) := ⟨rfl, by cases sf <;> decide⟩
theorem RowMatch.fltWgt (sf : Subframe) : RowMatch.Statement (.fltWgt sf) := ⟨rfl, by cases sf <;> decide⟩
theorem RowMatch.pfRes (sf : Subframe) : RowMatch.Statement (.pfRes sf) := ⟨rfl, by cases sf <;> decide⟩
theorem RowMatch.pfLt (sf : Subframe) : RowMatch.Statement (.pfLt sf) := ⟨rfl, by cases sf <;> decide⟩
theorem RowMatch.pfTilt (sf : Subframe) : RowMatch.Statement (.pfTilt sf) := ⟨rfl, by cases sf <;> decide⟩
theorem RowMatch.pfSt (sf : Subframe) : RowMatch.Statement (.pfSt sf) := ⟨rfl, by cases sf <;> decide⟩
theorem RowMatch.pfAgc (sf : Subframe) : RowMatch.Statement (.pfAgc sf) := ⟨rfl, by cases sf <;> decide⟩

end Sys2Proof.Laws
end

