-- ==== Sys2Proof/Machine/Schedule.lean ====
section
/-! DEFINITION. The pseudo-instructions (R87), the canonical schedules (R340, R341) as command lists,
and the assembler text of a command (R86). -/

namespace Sys2Proof.Machine

/-- `LP.ALL` (R87, R137). -/
def lpAll : List Instr := [.lpWin, .lpAcorr, .lpLag, .lpLev]

/-- `LSP.SUBFRAMES` (R87). -/
def lspSubframes : List Instr := [.lspInterp, .lspTolp .first, .lspTolp .second]

/-- `PF.ALL sf=s` (R87, R290). -/
def pfAll (sf : Subframe) : List Instr := [.pfRes sf, .pfLt sf, .pfTilt sf, .pfSt sf, .pfAgc sf]

/-- `DEC.SUB sf=s` (R87). -/
def decSub (sf : Subframe) : List Instr :=
  [.pitDec sf, .fcbDec sf, .gainPred, .gainDec sf, .excMix sf, .fltSyn sf] ++ pfAll sf

/-- The commands of one subframe of the encoder (R340). -/
def encSub (sf : Subframe) : List Instr :=
  [.pitCl sf, .pitConv, .fcbSearch sf, .gainPred, .gainQuant sf, .excMix sf]

/-- The commands of one encode call (R340); the host's own steps stand between them. -/
def encoderSchedule : List Instr :=
  [.frmBegin false false, .fltHp] ++ lpAll ++ [.lspRoot, .lsfStab, .lsfCos] ++ lspSubframes
    ++ [.fltRes .first, .fltRes .second, .fltWgt .first, .fltWgt .second]
    ++ encSub .first ++ encSub .second ++ [.updFrm]

/-- The commands of one decode call (R341), the same for a good and an erased frame. -/
def decoderSchedule (bfi pe : Bool) : List Instr :=
  [.frmBegin bfi pe, .lsfDec, .lsfCos] ++ lspSubframes ++ decSub .first ++ decSub .second
    ++ [.fltHp, .updFrm]

/-- The mnemonic of a command (R82). -/
def mnemonic : Instr → String
  | .chInit _ => "CH.INIT"
  | .chClose => "CH.CLOSE"
  | .frmBegin _ _ => "FRM.BEGIN"
  | .excMix _ => "EXC.MIX"
  | .updFrm => "UPD.FRM"
  | .lpWin => "LP.WIN"
  | .lpAcorr => "LP.ACORR"
  | .lpLag => "LP.LAG"
  | .lpLev => "LP.LEV"
  | .lspRoot => "LSP.ROOT"
  | .lspInterp => "LSP.INTERP"
  | .lspTolp _ => "LSP.TOLP"
  | .lsfStab => "LSF.STAB"
  | .lsfCos => "LSF.COS"
  | .lsfDec => "LSF.DEC"
  | .pitCl _ => "PIT.CL"
  | .pitInterp _ => "PIT.INTERP"
  | .pitDec _ => "PIT.DEC"
  | .pitConv => "PIT.CONV"
  | .fcbSearch _ => "FCB.SEARCH"
  | .fcbDec _ => "FCB.DEC"
  | .fcbConv => "FCB.CONV"
  | .gainPred => "GAIN.PRED"
  | .gainQuant _ => "GAIN.QUANT"
  | .gainDec _ => "GAIN.DEC"
  | .fltHp => "FLT.HP"
  | .fltSyn _ => "FLT.SYN"
  | .fltRes _ => "FLT.RES"
  | .fltWgt _ => "FLT.WGT"
  | .pfRes _ => "PF.RES"
  | .pfLt _ => "PF.LT"
  | .pfTilt _ => "PF.TILT"
  | .pfSt _ => "PF.ST"
  | .pfAgc _ => "PF.AGC"

/-- The `sf` field a command has (R80, R82). -/
def sfOf : Instr → Option Subframe
  | .excMix sf | .lspTolp sf | .pitCl sf | .pitInterp sf | .pitDec sf | .fcbSearch sf | .fcbDec sf
  | .gainQuant sf | .gainDec sf | .fltSyn sf | .fltRes sf | .fltWgt sf | .pfRes sf | .pfLt sf
  | .pfTilt sf | .pfSt sf | .pfAgc sf => some sf
  | .chInit _ | .chClose | .frmBegin _ _ | .updFrm | .lpWin | .lpAcorr | .lpLag | .lpLev | .lspRoot
  | .lspInterp | .lsfStab | .lsfCos | .lsfDec | .pitConv | .fcbConv | .gainPred | .fltHp => none

/-- A one-bit field as text. -/
def bitText (b : Bool) : String := if b then "1" else "0"

/-- The assembler text of a command (R86), every field written. -/
def asmText (i : Instr) : String :=
  match i with
  | .chInit .enc => "CH.INIT role=enc"
  | .chInit .dec => "CH.INIT role=dec"
  | .frmBegin bfi pe => "FRM.BEGIN bfi=" ++ bitText bfi ++ " pe=" ++ bitText pe
  | i => match sfOf i with
    | some .first => mnemonic i ++ " sf=0"
    | some .second => mnemonic i ++ " sf=1"
    | none => mnemonic i

end Sys2Proof.Machine
end

