-- ==== Sys2Proof/Tests/Slice0.lean ====
section
/-! SUPPORT. Tests. Expected values are those of spec/95_test_vectors.md (named by their id there) or are
worked by hand from the rule cited; the words of the decode tests are written out from the opcode map
(R82). At the end, for each obligation with hypotheses, a state and operands that meet them. -/

namespace Sys2Proof.Tests

open Sys2Proof.Machine

-- One proof at a time: the kernel evaluates these tests one after another in any case, and proofs that
-- wait for it would each hold a thread.
set_option Elab.async false

/-! ## Decoding (R80 to R84) -/

theorem test_decode_control :
    decode 0x0400 = .ok (.chInit .enc) ∧ decode 0x0500 = .ok (.chInit .dec) ∧ decode 0x0800 = .ok .chClose
      ∧ decode 0x0C00 = .ok (.frmBegin false false) ∧ decode 0x0D00 = .ok (.frmBegin true false)
      ∧ decode 0x0C80 = .ok (.frmBegin false true) ∧ decode 0x0D80 = .ok (.frmBegin true true)
      ∧ decode 0x1000 = .ok (.excMix .first) ∧ decode 0x1200 = .ok (.excMix .second)
      ∧ decode 0x1400 = .ok .updFrm := by decide

theorem test_decode_lp :
    decode 0x2000 = .ok .lpWin ∧ decode 0x2400 = .ok .lpAcorr ∧ decode 0x2800 = .ok .lpLag
      ∧ decode 0x2C00 = .ok .lpLev := by decide

theorem test_decode_lsp :
    decode 0x4000 = .ok .lspRoot ∧ decode 0x4400 = .ok .lspInterp ∧ decode 0x4800 = .ok (.lspTolp .first)
      ∧ decode 0x4A00 = .ok (.lspTolp .second) ∧ decode 0x4C00 = .ok .lsfStab
      ∧ decode 0x5000 = .ok .lsfCos ∧ decode 0x5400 = .ok .lsfDec := by decide

theorem test_decode_pitch :
    decode 0x6000 = .ok (.pitCl .first) ∧ decode 0x6200 = .ok (.pitCl .second)
      ∧ decode 0x6400 = .ok (.pitInterp .first) ∧ decode 0x6600 = .ok (.pitInterp .second)
      ∧ decode 0x6800 = .ok (.pitDec .first) ∧ decode 0x6A00 = .ok (.pitDec .second)
      ∧ decode 0x6C00 = .ok .pitConv := by decide

theorem test_decode_fcb_gain :
    decode 0x8000 = .ok (.fcbSearch .first) ∧ decode 0x8200 = .ok (.fcbSearch .second)
      ∧ decode 0x8400 = .ok (.fcbDec .first) ∧ decode 0x8600 = .ok (.fcbDec .second)
      ∧ decode 0x8800 = .ok .fcbConv ∧ decode 0xA000 = .ok .gainPred
      ∧ decode 0xA400 = .ok (.gainQuant .first) ∧ decode 0xA600 = .ok (.gainQuant .second)
      ∧ decode 0xA800 = .ok (.gainDec .first) ∧ decode 0xAA00 = .ok (.gainDec .second) := by decide

theorem test_decode_filters :
    decode 0xC000 = .ok .fltHp ∧ decode 0xC400 = .ok (.fltSyn .first) ∧ decode 0xC600 = .ok (.fltSyn .second)
      ∧ decode 0xC800 = .ok (.fltRes .first) ∧ decode 0xCA00 = .ok (.fltRes .second)
      ∧ decode 0xCC00 = .ok (.fltWgt .first) ∧ decode 0xCE00 = .ok (.fltWgt .second) := by decide

theorem test_decode_postfilter :
    decode 0xE000 = .ok (.pfRes .first) ∧ decode 0xE200 = .ok (.pfRes .second)
      ∧ decode 0xE400 = .ok (.pfLt .first) ∧ decode 0xE600 = .ok (.pfLt .second)
      ∧ decode 0xE800 = .ok (.pfTilt .first) ∧ decode 0xEA00 = .ok (.pfTilt .second)
      ∧ decode 0xEC00 = .ok (.pfSt .first) ∧ decode 0xEE00 = .ok (.pfSt .second)
      ∧ decode 0xF000 = .ok (.pfAgc .first) ∧ decode 0xF200 = .ok (.pfAgc .second) := by decide

/-- DEC-5 to DEC-11. -/
theorem test_decode_reserved :
    decode 0x0000 = .error .unassignedOp ∧ decode 0x2001 = .error .mustBeZero
      ∧ decode 0x2200 = .error .mustBeZero ∧ decode 0x0600 = .error .mustBeZero
      ∧ decode 0x1100 = .error .mustBeZero ∧ decode 0xFC00 = .error .unassignedOp
      ∧ decode 0x1800 = .error .unassignedOp ∧ decode 0x5800 = .error .unassignedOp
      ∧ decode 0x8C00 = .error .unassignedOp := by decide

/-- R86: assembler text. -/
theorem test_asm_text :
    asmText (.chInit .dec) = "CH.INIT role=dec" ∧ asmText (.frmBegin true false) = "FRM.BEGIN bfi=1 pe=0"
      ∧ asmText (.pfAgc .second) = "PF.AGC sf=1" ∧ asmText .lpWin = "LP.WIN" := by decide +kernel

/-! ## Well-formedness: an ill-formed term for each check -/

/-- `K1` has one element. -/
theorem test_shape_refused : (⟨.k1, 0, [1, 2]⟩ : HostWrite).inShape = false
    ∧ (⟨.k1, 0, [1, 2]⟩ : HostWrite).wellFormed = false := by decide

/-- `T0F` is an int8; `PRM` is unsigned. -/
theorem test_type_refused : (⟨.t0f, 0, [128]⟩ : HostWrite).inType = false
    ∧ (⟨.prm, 3, [-1]⟩ : HostWrite).inType = false ∧ (⟨.prm, 3, [-1]⟩ : HostWrite).wellFormed = false := by
  decide

theorem test_write_wellFormed : (⟨.prm, 14, [65535]⟩ : HostWrite).wellFormed = true
    ∧ (⟨.r, 10, [-2147483648]⟩ : HostWrite).wellFormed = true := by decide

/-! ## Toy tables and small states -/

/-- The toy tables of spec/95_test_vectors.md (`TI1` among them). -/
def toyTables : Tables :=
  { tWin := fun _ => 16384
    tLagWin := tableOf [0, 32440]
    tInterp := tableOf [32767]
    tL1 := fun r i => if r = 5 then BitVec.ofInt 16 (1000 * (i + 1)) else 0
    tL2 := fun _ _ => 0
    tL3 := fun _ _ => 0
    tMaPred := fun a k _ => if a = 0 ∧ k = 0 then 8192 else 0
    tGa := fun i j => tableOf ([[0, 4096], [8192, 2048], [16384, 4096], [4096, 8192]].getD i []) j
    tGb := fun i j => tableOf ([[0, 0], [4096, 2048]].getD i []) j
    gaImap := Equiv.refl _
    gbImap := Equiv.refl _
    tHpPre := ⟨4096, 0, 0, 0, 0⟩
    tHpPost := ⟨4096, -4096, 0, 0, 0⟩
    qHp := 12 }

/-- Formats for the five kernel functions whose formats R117 leaves open. -/
def toyKernel : KernelOpen :=
  { log2In := 3, log2Out := 6, log2Outside := fun _ => 0, exp2In := 4, exp2Out := 5
    sqrtIn := 3, sqrtOut := 4, sqrtOutside := fun _ => 0
    atanIn := 4, atanOut := 8, asinIn := 4, asinOut := 8, asinOutside := fun _ => 0 }

/-- R8's defaults over the toy tables. -/
def toy : Config := defaultConfig toyTables toyKernel

/-- `TI3` of spec/95_test_vectors.md. -/
def toy3 : Config := { toy with tInterp := tableOf [32767, 27000, 13500, 0, -5000, -3000] }

/-- An encoder channel in a frame, everything else as after `CH.INIT`. -/
def encCh : State := State.fresh cfg 0x0011 [] 0

/-- A decoder channel in a good frame. -/
def decCh : State := State.fresh cfg 0x0013 [] 0

/-- A decoder channel in an erased frame. -/
def erasedCh : State := State.fresh cfg 0x0017 [] 0

/-- Elements of a register written from `first` on. -/
def wr (s : State) (reg : Reg) (first : Nat) (vals : List Int) : State :=
  s.setFrom reg first vals.length fun k => BitVec.ofInt reg.width (vals.getD k 0)

/-- A whole register written, padded with zeros. -/
def wrAll (s : State) (reg : Reg) (vals : List Int) : State :=
  s.setAll reg fun k => BitVec.ofInt reg.width (vals.getD k 0)

/-- Samples of a buffer from index `i` on. -/
def wrBuf (s : State) (b : Buf) (i : Int) (vals : List Int) : State :=
  { s with bufs := Buffers.fill b i (fun _ k => BitVec.ofInt 16 (vals.getD k 0)) vals.length s.bufs }

/-- The first `n` elements of a register. -/
def rd (s : State) (reg : Reg) (n : Nat) : List Int := tabFrom (s.regs.int reg) 0 n

/-- `n` samples of a buffer from index `i` on. -/
def rdBuf (s : State) (b : Buf) (i : Int) (n : Nat) : List Int := tabFrom (fun k => s.bufs.at b (i + k)) 0 n

/-- The words of a vector as integers. -/
def ints {n : Nat} (v : Vec I16 n) : List Int := v.toList.map BitVec.toInt

/-- The reason a command is refused for, if it is. -/
def reason (r : Result) : Option Refusal :=
  match r with
  | .refused why => some why
  | _ => none

/-! ## Kernel, maps and frames -/

/-- K-1 to K-4, K-6. -/
theorem test_kernel :
    [sat16 32768, sat16 (-32769), sat16 (-40000)].map BitVec.toInt = [32767, -32768, -32768]
      ∧ [rnd (5 / 2), rnd (-5 / 2), rnd (-1 / 2), rnd (49 / 100)] = [3, -2, 0, 0]
      ∧ [shr (-5) 1, shrR (-5) 1, shrR 5 1, shrR 3 2] = [-3, -2, 3, 1]
      ∧ [q (9 / 10) 14, q (1 / 5) 14, q (4 / 5) 14] = [14746, 3277, 13107]
      ∧ norm64to31 (240 * 2 ^ 30) = 7 := by decide +kernel

/-- PIT-3 to PIT-7, FCB-4 (second vector), FCB-9. -/
theorem test_maps :
    [p1EncDefault 20 (-1), p1EncDefault 84 1, p1EncDefault 85 0, p1EncDefault 143 0] = [1, 195, 197, 255]
      ∧ [0, 195, 196, 197, 255].map p1DecDefault = [(19, 1), (84, 1), (85, -1), (85, 0), (143, 0)]
      ∧ [p2EncDefault 50 0 45, p2EncDefault 45 (-1) 45, p2EncDefault 54 1 45] = [17, 1, 30]
      ∧ p2DecDefault 0 20 = (19, 1) ∧ p2DecDefault 31 134 = (144, -1)
      ∧ [0, 3, 4, 92, 197, 255].map parityDefault = [1, 1, 0, 1, 0, 1]
      ∧ fcbDecodeDefault 8191 15 = ⟨35, 36, 37, 39, true, true, true, true⟩
      ∧ prngDefault 21845 = 3242 := by decide +kernel

/-- ENC-4, ENC-5. -/
theorem test_frame :
    tabFrom (fun k => (frameByte (packFrame fun i =>
        [1, 2, 3, 4, 5, 0, 6, 7, 1, 8, 9, 10, 11, 2, 12].getD i 0) k).toNat) 0 10
      = [0x82, 0x19, 0x01, 0x40, 0x06, 0x73, 0x09, 0x00, 0x55, 0xAC]
    ∧ tabFrom (unpackField (frameOfBytes fun k =>
        ([0x12, 0x34, 0x56, 0x78, 0x9A, 0xBC, 0xDE, 0xF0, 0x0F, 0xA5].map (BitVec.ofNat 8)).getD k 0)) 0 15
      = [0, 18, 6, 17, 89, 1, 6298, 11, 6, 6, 30, 7681, 15, 2, 5] := by decide +kernel

/-! ## Control -/

/-- CTL-9. -/
theorem test_chInit : (match execChInit .dec State.reset with
    | .next t => (t.fctl, t.fstat, t.dec.seed.toNat, t.dec.pitchLast.toInt, t.dec.agcPrev.toInt)
    | _ => (0, 0, 0, 0, 0)) = (0x0003, 0, 21845, 60, 4096) := by decide +kernel

/-- R336: whatever the free values are, `FCTL.OPEN` is 0. -/
theorem test_chClose : (match execChClose encCh with
    | .next t => (t.isOpen, t.closes)
    | _ => (true, 0)) = (false, 1) := by
  simp [execChClose, encCh, State.fresh, State.isOpen, State.closed, fctlClosed]

/-- R337: `FSTAT` cleared, `PRM` kept, everything else undefined. -/
theorem test_frmBegin :
    (match execFrmBegin true false
        { wr (wr (wr decCh .prm 4 [92]) .gp 0 [5]) .pcm 0 [1] with fctl := 0x0003, fstat := 0x0E } with
      | .next t => (t.fctl, t.fstat, t.regs.nat .prm 4, t.regs.definedAt .gp 0, t.regs.definedAt .pcm 0)
      | _ => (0, 0, 0, true, true)) = (0x0017, 0, 92, false, false) := by decide +kernel

/-- FLT-8. -/
theorem test_excMix : rdBuf (excMix toy .first (wrAll (wrAll (wr (wr decCh .gp 0 [8192]) .gc 0 [32768])
    .acv [100, 101]) .fcv [8192, 0])) .exc 0 3 = [52, 51, 0] := by decide +kernel

/-- FLT-9; R338: the encoder remembers `GP`. -/
theorem test_excMix_saturates :
    let t := excMix toy .second (wrAll (wrAll (wr (wr encCh .gp 0 [32767]) .gc 0 [0]) .acv [32767]) .fcv [])
    (rdBuf t .exc 39 2, t.enc.gpLast.toInt) = ([0, 32767], 32767) := by decide +kernel

/-- CTL-10. -/
theorem test_updFrm :
    let t := updFrm (wrAll (wrBuf decCh .exc 0 (tabFrom (fun k => (k : Int)) 1 80)) .qlsp [30000])
    (rdBuf t .exc (-81) 2, rdBuf t .exc (-1) 2, t.fctl, (ints t.dec.qlspPrev).getD 0 0)
      = ([0, 1], [80, 1], 0x0003, 30000) := by decide +kernel

/-- CTL-7. -/
theorem test_updFrm_undefined : reason (execUpdFrm encCh) = some .undefinedOperand := by decide +kernel

/-! ## LP analysis -/

/-- LP-1. -/
theorem test_lpWin : rd (lpWin toy (wrBuf encCh .sig 5 [1000])) .wsig 7 = [0, 0, 0, 0, 0, 500, 0] := by
  decide +kernel

/-- LP-4. -/
theorem test_lpAcorr :
    let t := lpAcorr toy (wrAll encCh .wsig [3, -2, 1])
    (rd t .r 3, rd t .rscale 1, t.fstat) = ([14, -8, 3], [0], 0) := by decide +kernel

/-- LP-5: the rescaling of the sums `(240 - k) · 2^30`. -/
theorem test_lpAcorr_rescales :
    acorrScale toy (240 * 2 ^ 30) = 7 ∧ rescale (240 * 2 ^ 30) 7 = 2013265920
      ∧ rescale (239 * 2 ^ 30) 7 = 2004877312 ∧ rescale (230 * 2 ^ 30) 7 = 1929379840 := by decide +kernel

/-- LP-6. -/
theorem test_lpLag : rd (lpLag toy (wrAll encCh .r [7, 1000])) .rl 3 = [7, 990, 0] := by decide +kernel

/-- LP-8. -/
theorem test_lpLev :
    (match lpLev toy (wrAll encCh .rl [1024, 512]) with
      | .next t => (rd t .a 10, rd t .rc 3, rd t .eres 1)
      | _ => ([], [], [])) =
    ([-3724, 3351, -2979, 2607, -2234, 1862, -1489, 1117, -745, 372],
      [-1073741824, 715827883, -536870912], [559]) := by decide +kernel

/-- LP-11. -/
theorem test_lpLev_refused : reason (execLpLev (wrAll encCh .rl [100, 200])) = some .levinsonEnergy := by
  decide +kernel

/-! ## LSP -/

/-- LSP-1. -/
theorem test_lspRoot : rd (lspRoot toy (wrAll encCh .a [])) .lsp 10
    = [31440, 27564, 21458, 13611, 4664, -4664, -13611, -21458, -27564, -31440] := by decide +kernel

/-- LSP-3: fewer than ten roots. -/
theorem test_lspRoot_fails :
    let t := lspRoot toy (wrAll encCh .a (List.replicate 10 8000))
    (t.fstat, rd t .lsp 10, ints t.enc.lspPrev) = (1, initLspDefault, initLspDefault) := by decide +kernel

/-- LSP-4: `(30000 + 29001) / 2` rounds up. -/
theorem test_lspInterp : rd (lspInterp (wrAll encCh .qlsp [29001])) .ilsp 2 = [29501, 13000] := by
  decide +kernel

/-- LSP-6. -/
theorem test_lspTolp :
    tabFrom ((lspTolp toy .second (wrAll encCh .qlsp initLspDefault)).regs.aqAt .second) 0 10
      = [-3750, 6003, -4924, 5959, -4316, 4045, -2402, 1808, -729, 346] := by decide +kernel

/-- LSP-8. -/
theorem test_lsfStab : rd (lsfStab toy (wrAll encCh .qlsf
      [500, 20, 600, 5000, 8000, 11000, 14000, 17000, 20000, 26000])) .qlsf 10
    = [40, 500, 821, 5000, 8000, 11000, 14000, 17000, 20000, 25681] := by decide +kernel

/-- LSP-12. -/
theorem test_lsfCos : rd (lsfCos toy (wrAll encCh .qlsf [8579, 0, 12868, 25736])) .qlsp 4
    = [16383, 32767, 0, -32768] := by decide +kernel

/-- LSP-14, LSP-15: a good frame, then an erased one. -/
theorem test_lsfDec :
    let t := lsfDec toy (wrAll decCh .prm [0, 5])
    let u := lsfDec toy { t with fctl := 0x0017 }
    (rd t .qlsf 3, (ints t.dec.lsfHist).take 2, rd u .qlsf 3, (ints u.dec.lsfHist).take 2, u.fstat)
      = ([1335, 2670, 4005], [1000, 2000], [1335, 2670, 4005], [1447, 2893], 8) := by decide +kernel

/-- LSP-17. -/
theorem test_lsfDec_range : reason (execLsfDec (wrAll decCh .prm [0, 128])) = some .parameterRange := by
  decide +kernel

/-! ## Pitch -/

/-- `H` = (4096, 0, …), `X` = (100, 0, …). -/
def pitchCh : State := wrAll (wrAll encCh .x [100]) .h [4096]

/-- PIT-12: two lags tie and the first wins; then the fraction +1. -/
theorem test_pitCl :
    let t := pitCl toy3 .first (wrBuf (wr pitchCh .tol 0 [52]) .exc (-51) [1000, 1000])
    (rd t .t0 1, rd t .t0f 1, rd t .acv 2, [t.regs.nat .prm 4, t.regs.nat .prm 5], rd t .t0min 1,
      rd t .t0max 1) = ([50], [1], [1236, 320], [93, 1], [45], [54]) := by decide +kernel

/-- PIT-9: the lag chosen. -/
theorem test_pitCl_second :
    clLag toy .second (wrBuf (wr (wr pitchCh .t0min 0 [45]) .t0max 0 [54]) .exc (-10) [500]) = 50 := by
  decide +kernel

/-- PIT-14: the vector extends itself. -/
theorem test_pitInterp :
    let t := pitInterp toy .first (wrBuf (wr (wr encCh .t0 0 [19]) .t0f 0 [0]) .exc (-19) [1000])
    [0, 1, 19, 38].map (t.regs.int .acv) = [1000, 0, 1000, 1000] := by decide +kernel

/-- PIT-15. -/
theorem test_pitInterp_range :
    reason (execPitInterp .first (wr (wr encCh .t0 0 [18]) .t0f 0 [0])) = some .parameterRange := by
  decide +kernel

/-- PIT-17: a parity error. -/
theorem test_pitDec_parity :
    let t := pitDec toy .first { decCh with fctl := 0x001B }
    (rd t .t0 1, rd t .t0f 1, rd t .t0min 1, rd t .t0max 1, t.dec.pitchLast.toInt, t.fstat)
      = ([60], [0], [55], [64], 61, 8) := by decide +kernel

/-- PIT-19, with the `T0MAX` that R181 leaves beside `T0MIN` = 134; with none defined the command is refused
(R24 V19, R25). -/
theorem test_pitDec_second :
    let s := wr (wr decCh .prm 10 [31]) .t0min 0 [134]
    let t := pitDec toy .second (wr s .t0max 0 [143])
    (rd t .t0 1, rd t .t0f 1, t.dec.pitchLast.toInt, t.fstat) = ([144], [-1], 144, 0)
      ∧ reason (execPitDec .second (wr s .t0max 0 [143])) = none
      ∧ reason (execPitDec .second s) = some .undefinedOperand := by decide +kernel

/-- PIT-20. -/
theorem test_pitConv : rd (pitConv toy (wrAll (wrAll encCh .acv [1000]) .h [4096, 2048])) .y 3
    = [1000, 500, 0] := by decide +kernel

/-! ## Fixed codebook -/

/-- FCB-1's operands. -/
def fcbCh : State :=
  wr (wrAll (wrAll (wr (wrAll encCh .h [4096]) .gpu 0 [0]) .y [])
    .x [0, 0, 0, 0, 0, 0, 0, 1000, 0, 0, 0, -500]) .t0 0 [60]

/-- FCB-1: positions (0, 11, 7, 3), signs (+, -, +, +). -/
theorem test_fcbSearch_pulses : fcbPulses toy fcbCh = ⟨0, 11, 7, 3, true, false, true, true⟩ := by
  decide +kernel

/-- FCB-1: what is written for those pulses. -/
theorem test_fcbSearch_codewords :
    fcbEncodeDefault ⟨0, 11, 7, 3, true, false, true, true⟩ = (80, 13)
      ∧ fcbEncodeDefault ⟨10, 11, 7, 9, false, false, true, true⟩ = (1618, 12) := by decide +kernel

/-- FCB-10. -/
theorem test_fcbDec_erased :
    let t := fcbDec toy .first (wr erasedCh .t0 0 [60])
    ([10, 26, 18, 12, 11].map (t.regs.int .fcv), t.dec.seed.toNat, t.fstat)
      = ([8192, 8192, 8192, -8192, 0], 23867, 8) := by decide +kernel

/-- FCB-5, on the good frame: C = 0 with all signs positive puts a pulse at 0, echoed at the lag 19. -/
theorem test_fcbDec_sharpens :
    let s := wr (wr decCh .t0 0 [19]) .prm 6 [0, 15]
    let t := fcbDec toy .first { s with dec := { s.dec with gpBnd := 13107 } }
    [0, 19, 38].map (t.regs.int .fcv) = [8192, 6554, 5243] := by decide +kernel

/-- FCB-8. -/
theorem test_fcbConv : rd (setZ toy (wrAll (wrAll encCh .fcv [8192]) .h [4096, 2048])) .z 3
    = [4096, 2048, 0] := by decide +kernel

/-! ## Gain -/

/-- GAIN-1. -/
theorem test_gainPred : rd (gainPred toy (wrAll decCh .fcv [8192, -8192, 8192, 8192])) .gcp 1 = [91503] := by
  decide +kernel

/-- GAIN-2. -/
theorem test_gainPred_flat :
    let s := wrAll decCh .fcv [8192, -8192, 8192, 8192]
    rd (gainPred toy { s with dec := { s.dec with gpeHist := Vec.tab fun _ => 0 } }) .gcp 1 = [1638400] := by
  decide +kernel

/-- GAIN-4: the pair chosen. -/
theorem test_gainQuant_pair : gainPair toy (wr (wrAll (wrAll (wrAll encCh .x [1000, 600]) .y [1000])
    .z [0, 4096]) .gcp 0 [4915200]).regs = (2, 1) := by decide +kernel

/-- GAIN-4: the gains and the history value of that pair. -/
theorem test_gainQuant_values :
    ((gpWord toy 2 1).toInt, (gcWord toy 2 1 4915200).toInt, (gammaDb toy 2 1).toInt)
      = (20480, 7372800, 3606) := by decide +kernel

/-- GAIN-6, first subframe. -/
theorem test_gainDec_erased :
    let t := gainDec toy .first { erasedCh with dec := { erasedCh.dec with
      gpRaw := 16384, gc := 163840, gpeHist := Vec.tab (tableOf [0, -2048, -4096, -6144]) } }
    (rd t .gp 1, rd t .gc 1, ints t.dec.gpeHist, t.dec.gpBnd.toInt)
      = ([14746], [160563], [-7168, 0, -2048, -4096], 13107) := by decide +kernel

/-- GAIN-9. -/
theorem test_gainDec_range :
    reason (execGainDec .first (wr (wr decCh .prm 8 [8, 0]) .gcp 0 [5])) = some .parameterRange := by
  decide +kernel

/-! ## Filters -/

/-- FLT-2. -/
theorem test_fltSyn : rdBuf (fltSyn toy .first (wrBuf (wrAll decCh .aq [-2048]) .exc 0 [1000])) .speech 0 7
    = [1000, 500, 250, 125, 63, 32, 16] := by decide +kernel

/-- FLT-3: the saturated value is fed back. -/
theorem test_fltSyn_saturates :
    rdBuf (fltSyn toy .first (wrBuf (wrAll decCh .aq [-8192]) .exc 0 [20000])) .speech 0 3
      = [20000, 32767, 32767] := by decide +kernel

/-- FLT-4. -/
theorem test_fltRes :
    rdBuf (fltRes toy .first (wrBuf (wrAll encCh .aq [-4096]) .sig 119 [10, 10, 13, 9])) .exc 0 3
      = [0, 3, -4] := by decide +kernel

/-- FLT-5. -/
theorem test_fltWgt : rdBuf (fltWgt toy .first (wrBuf (wrAll encCh .aq []) .sig 120 [1000])) .wsp 0 4
    = [1000, 700, 490, 343] := by decide +kernel

/-- FLT-6. -/
theorem test_fltHp_decoder : rd (fltHp toy (wrAll decCh .pfout [5, 5, 7])) .pcm 3 = [5, 0, 2] := by
  decide +kernel

/-- FLT-7, with `PCM` zero but for its first and last samples. -/
theorem test_fltHp_encoder :
    let t := fltHp toy (wrBuf (wr (wrAll encCh .pcm [1]) .pcm 79 [80]) .sig 80 [9])
    (rdBuf t .sig 0 1, rdBuf t .sig 160 1, rdBuf t .sig 239 1, t.enc.hpMem.toList.map BitVec.toInt)
      = ([9], [1], [80], [80, 0, 80, 0]) := by decide +kernel

/-! ## Post-filter -/

/-- PF-1. -/
theorem test_pfRes :
    rdBuf (pfRes toy .first (wrBuf (wrAll decCh .aq [-2048]) .speech 0 [1000, 1000])) .pfres 0 3
      = [1000, 725, -275] := by decide +kernel

/-- PF-2. -/
theorem test_pfLt :
    let s := wrBuf (wrBuf (wr decCh .t0 0 [50]) .pfres 0 [100]) .pfres (-50) [40]
    let t := pfLt toy .first s
    (ltLag toy s.bufs .first 50, rdBuf t .ltf 0 2, t.fstat) = (50, [80, 0], 0) := by decide +kernel

/-- PF-3, PF-5. -/
theorem test_pfLt_off :
    (pfLt toy .first (wr decCh .t0 0 [50])).fstat = 2
      ∧ reason (execPfLt .first (wr decCh .t0 0 [18])) = some .parameterRange
      ∧ ltInBounds { toy with pfLtClamp := false } .first 144 = false := by decide +kernel

/-- PF-6. -/
theorem test_pfTilt :
    let t := pfTilt toy .first (wrBuf (wrAll decCh .aq [-2048]) .ltf (-1) [0, 1000, 1000, 1000, -1000])
    (rd t .k1 1, rd t .tlt 4, t.fstat) = ([2522], [1000, 938, 938, -1062], 0) := by decide +kernel

/-- PF-9. -/
theorem test_pfSt :
    rdBuf (pfSt toy .first (wrAll (wrAll decCh .aq [-2048]) .tlt [1000])) .stf 0 3 = [1000, 350, 123] := by
  decide +kernel

/-- PF-10. -/
theorem test_pfAgc :
    let t := pfAgc toy .first
      (wrBuf (wrBuf decCh .speech 0 (List.replicate 40 1000)) .stf 0 (List.replicate 40 500))
    (t.dec.agcPrev.toInt, rd t .pfout 2) = (4506, [550, 550]) := by decide +kernel

/-- PF-11. -/
theorem test_pfAgc_silent :
    let t := pfAgc toy .first decCh
    (t.dec.agcPrev.toInt, (pfAgc toy .first t).dec.agcPrev.toInt) = (3686, 3317) := by decide +kernel

/-! ## The kernel functions of R117, and `CFG.num` -/

/-- By hand: 64·log2(24/8) = 101.44, 32·2^(-12/16) = 19.03, 16·√(100/8) = 56.57, 256·arctan(-2) = -283.4,
256·arcsin(1) = 402.1. -/
theorem test_kernelFunctions :
    (toy.kLog2 24, toy.kExp2 (-12), toy.kSqrt 100, toy.kAtan (-32), toy.kAsin 16)
      = (101, 19, 57, -283, 402) := by decide +kernel

/-- The arc functions in the narrowest formats, by hand: π/2 = 1.57 rounds to 2, arctan(14) = 1.49947 to 1 and
arctan(63/4) = 1.507 to 2; and in a wide one: π·2^98 = …8488.05. -/
theorem test_kernelAngles :
    (kAtanDefault 0 0 1048576, kAtanDefault 0 0 (-1048576), kAtanDefault 2 0 56, kAtanDefault 2 0 63)
        = (2, -2, 1, 2)
      ∧ (kAsinDefault 0 0 id 1, kAsinDefault 0 0 id (-1)) = (2, -2)
      ∧ kAtanDefault 0 100 1 = 995610453248924340922087778488 := by decide +kernel

/-- R154 names `shr(a,1) + shr(b,1)` as another realisation of the mean: 1 and 2 give 1, not 2. -/
def halving (i : Instr) (ch : Channel) : Option Channel :=
  let mean (k : Nat) : I16 := sat16 (shr (ch.enc.qlspPrev.elD k 0).toInt 1 + shr (ch.regs.int .qlsp k) 1)
  if i = .lspInterp then some { ch with regs := ch.regs.setAll .ilsp mean } else none

theorem test_num :
    let s := wrAll { encCh with enc := { encCh.enc with qlspPrev := Vec.tab fun _ => 1 } } .qlsp [2]
    rd (realised { toy with num := halving } .lspInterp s (lspInterp s)) .ilsp 1 = [1]
      ∧ rd (realised toy .lspInterp s (lspInterp s)) .ilsp 1 = [2] := by decide +kernel

/-! ## Refusals and the port -/

/-- CTL-1 to CTL-6 and CTL-8 (R358). -/
theorem test_refusals :
    reason (exec .lpWin State.reset) = some .channelClosed
      ∧ reason (exec (.chInit .dec) encCh) = some .channelOpen
      ∧ reason (exec .lpWin decCh) = some .wrongRole
      ∧ reason (exec .lsfDec { decCh with fctl := 0x0003 }) = some .notInFrame
      ∧ reason (exec (.frmBegin false false) encCh) = some .inFrame
      ∧ reason (exec (.frmBegin true false) { encCh with fctl := 0x0001 }) = some .parameterRange
      ∧ reason (command 0x0000 State.reset) = some .reservedEncoding := by decide +kernel

/-- LP-13; R25: a register no one has written. -/
theorem test_undefined_operand : reason (exec .lpAcorr encCh) = some .undefinedOperand := by decide +kernel

/-- R21, R25: a host write defines the elements it names and no other. -/
theorem test_host_write :
    (match step { encCh with port := [.write ⟨.prm, 4, [92, 1]⟩] } with
      | .next t => ([3, 4, 5, 6].map (t.regs.definedAt .prm), t.regs.nat .prm 4)
      | _ => ([], 0)) = ([false, true, true, false], 92) := by decide +kernel

/-- The first command of a run: `CH.INIT role=enc` placed by `withFetchWord` and stepped. -/
theorem test_first_command :
    (match step (State.reset.withFetchWord 16 0x0400) with
      | .next t => (t.fctl, t.port.length)
      | _ => (0, 9)) = (0x0001, 0) := by decide +kernel

/-! ## Witnesses: for each obligation with hypotheses, a state and operands that meet them -/

/-- Every operand register written with zeros, but a lag of 60 with its window. -/
def full (fctl : BitVec 16) : State :=
  wr (wr (wr ([.pcm, .wsig, .r, .rscale, .rl, .rc, .a, .eres, .lsp, .qlsf, .qlsp, .ilsp, .aq, .tol, .x, .h,
    .t0f, .acv, .y, .gpu, .x2, .fcv, .z, .gcp, .gp, .gc, .prm, .tlt, .pfout, .k1].foldl
    (fun s reg => s.setAll reg fun _ => 0) (State.fresh cfg fctl [] 0)) .t0 0 [60]) .t0min 0 [55]) .t0max 0 [64]

theorem witness_StepServesPort :
    decode 0x0400 = .ok (.chInit .enc) ∧ (∀ i, (0x2200 : BitVec 16) ≠ encode i)
      ∧ (State.reset.withFetchWord 16 0x0400).port = [.command 0x0400]
      ∧ (State.reset.withFetchWord 16 0x2200).port = [.command 0x2200] ∧ State.reset.port = [] := by
  refine ⟨by decide, fun i => ?_, rfl, rfl, rfl⟩
  cases i <;> first
    | decide
    | (rename_i a; cases a <;> decide)
    | (rename_i a b; cases a <;> cases b <;> decide)

theorem witness_ChInitResets : encCh.isOpen = true ∧ State.reset.isOpen = false := by decide +kernel

theorem witness_ChCloseClears : State.reset.isOpen = false ∧ encCh.isOpen = true ∧ decCh.isOpen = true
    ∧ decCh.closes = encCh.closes ∧ decCh.port = encCh.port := by decide +kernel

theorem witness_FrmBeginOpensFrame :
    State.reset.isOpen = false ∧ (encCh.isOpen = true ∧ encCh.inFrame = true)
      ∧ (let s := { encCh with fctl := 0x0001 }
         s.isOpen = true ∧ s.inFrame = false ∧ s.role = .enc)
      ∧ (let s := { decCh with fctl := 0x0003 }
         s.isOpen = true ∧ s.inFrame = false ∧ s.role = .dec) := by decide +kernel

theorem witness_ExcMixBuildsExcitation :
    (full 0x0011).ready .ed [.all .gp, .all .gc, .all .acv, .all .fcv] = true ∧ (full 0x0011).role = .enc
      ∧ (full 0x0013).ready .ed [.all .gp, .all .gc, .all .acv, .all .fcv] = true
      ∧ (full 0x0013).role = .dec := by decide +kernel

theorem witness_UpdFrmShiftsHistory :
    (full 0x0011).ready .ed [.all .qlsp] = true ∧ (full 0x0013).ready .ed [.all .qlsp] = true := by
  decide +kernel

theorem witness_LpWinWindows : encCh.ready .e [] = true := by decide +kernel

theorem witness_LpAcorrAutocorrelates : (full 0x0011).ready .e [.all .wsig] = true := by decide +kernel

theorem witness_AcorrLagZeroDominates :
    (full 0x0011).ready .e [.all .wsig] = true ∧ ∃ t, exec .lpAcorr (full 0x0011) = .next t := by
  have h : (full 0x0011).ready .e [.all .wsig] = true := by decide +kernel
  exact ⟨h, _, by unfold exec execLpAcorr; exact checked_of_ready h rfl⟩

theorem witness_LpLagWindows : (full 0x0011).ready .e [.all .r] = true := by decide +kernel

/-- The sequences of R135, order by order: `k_i`, `E_i`, `a^(i)`. -/
def levSeq (rl : Nat → Rat) : Nat → Rat × Rat × (Nat → Rat)
  | 0 => (0, if rl 0 = 0 then 1 else rl 0, fun _ => 0)
  | i + 1 =>
    let p := levSeq rl i
    let k := -(rl (i + 1) + ∑ j ∈ Finset.Ico 1 (i + 1), p.2.2 j * rl (i + 1 - j))
      / (if p.2.1 = 0 then 1 else p.2.1)
    (k, (1 - k * k) * p.2.1, fun j => if j = i + 1 then k else p.2.2 j + k * p.2.2 (i + 1 - j))

/-- On every register content there are sequences that satisfy the equations of R135; the state below is
ready, and the first three of `RL` = (1024, 512, 0, …), (100, 200, 0, …) and (-1, 0, …) take the two
branches. -/
theorem witness_LpLevRecursion :
    (∀ rl : Nat → Rat, ∃ (k E : Nat → Rat) (a : Nat → Nat → Rat),
      E 0 = (if rl 0 = 0 then 1 else rl 0) ∧
      ∀ i, 1 ≤ i → i ≤ 10 →
        k i = -(rl i + ∑ j ∈ Finset.Ico 1 i, a (i - 1) j * rl (i - j))
            / (if E (i - 1) = 0 then 1 else E (i - 1))
        ∧ a i i = k i ∧ (∀ j, 1 ≤ j → j < i → a i j = a (i - 1) j + k i * a (i - 1) (i - j))
        ∧ E i = (1 - k i * k i) * E (i - 1))
    ∧ (full 0x0011).ready .e [.all .rl] = true
    ∧ (wr (full 0x0011) .rl 0 [1024, 512]).ready .e [.all .rl] = true
    ∧ (levSeq (fun i => ((wr (full 0x0011) .rl 0 [100, 200]).regs.int .rl i : Rat)) 1).2.1 < 0
    ∧ (wr (full 0x0011) .rl 0 [-1]).regs.int .rl 0 < 0 := by
  refine ⟨fun rl => ⟨fun i => (levSeq rl i).1, fun i => (levSeq rl i).2.1, fun i => (levSeq rl i).2.2,
    rfl, fun i h1 _ => ?_⟩, by decide +kernel, by decide +kernel, ?_, by decide +kernel⟩
  · obtain ⟨m, rfl⟩ : ∃ m, i = m + 1 := ⟨i - 1, by omega⟩
    refine ⟨rfl, if_pos rfl, fun j _ hj => if_neg (by omega), rfl⟩
  · have h0 : (wr (full 0x0011) .rl 0 [100, 200]).regs.int .rl 0 = 100 := by decide +kernel
    have h1 : (wr (full 0x0011) .rl 0 [100, 200]).regs.int .rl 1 = 200 := by decide +kernel
    simp only [levSeq, zero_add, h0, h1]
    norm_num

theorem witness_LevResidualBounded :
    (full 0x0011).ready .e [.all .rl] = true ∧ ∃ t, exec .lpLev (full 0x0011) = .next t := by
  have h : (full 0x0011).ready .e [.all .rl] = true := by decide +kernel
  have hs : (levinson ((full 0x0011).regs.int .rl)).isSome = true := by decide +kernel
  obtain ⟨st, hst⟩ := Option.isSome_iff_exists.mp hs
  refine ⟨h, lpLevWrite cfg st (full 0x0011), ?_⟩
  unfold exec execLpLev
  rw [checked_of_ready h rfl, lpLev, hst]
  rfl

theorem witness_LspRootOrFallback : (full 0x0011).ready .e [.all .a] = true := by decide +kernel

theorem witness_ChebyshevIsCosineSum : ((1 : Rat) : ℝ) = Real.cos 0 := by simp

theorem witness_LspInterpMean :
    (full 0x0011).ready .ed [.all .qlsp] = true ∧ (full 0x0013).ready .ed [.all .qlsp] = true := by
  decide +kernel

theorem witness_LspTolpRecombines :
    (full 0x0011).ready .ed [.all .ilsp] = true ∧ (full 0x0013).ready .ed [.all .qlsp] = true := by
  decide +kernel

/-- The premise of the inner clause is met with the least first value and the least gaps. -/
theorem witness_LsfStabSpaces :
    (full 0x0013).ready .ed [.all .qlsf] = true ∧
    (let s := wr (full 0x0013) .qlsf 0 [40, 361, 682, 1003, 1324, 1645, 1966, 2287, 2608, 25681]
     s.ready .ed [.all .qlsf] = true ∧ 40 ≤ s.regs.int .qlsf 0 ∧ s.regs.int .qlsf 9 ≤ 25681
      ∧ ∀ i < 9, s.regs.int .qlsf i + 321 ≤ s.regs.int .qlsf (i + 1)) := by decide +kernel

theorem witness_LsfCosWithinOneUnit : (full 0x0011).ready .ed [.all .qlsf] = true := by decide +kernel

theorem witness_LsfDecGoodFrame :
    let s := wr (full 0x0013) .prm 0 [1, 127, 31, 31]
    s.ready .d [needPrm 0 4] = true ∧ s.bfi = false ∧ ∀ i < 4, s.regs.prmInRange i = true := by
  decide +kernel

theorem witness_LsfDecErasedFrame : erasedCh.ready .d [] = true ∧ erasedCh.bfi = true := by decide +kernel

theorem witness_CodewordsRoundTrip :
    ((20 : Int) ≤ 84 ∧ (84 : Int) ≤ 143 ∧ -1 ≤ (1 : Int)) ∧ legalPrm (fun i => 2 ^ prmWidth i - 1)
      ∧ (35 < 40 ∧ 36 < 40 ∧ 37 < 40 ∧ 39 < 40 ∧ 35 % 5 = 0 ∧ 36 % 5 = 1 ∧ 37 % 5 = 2 ∧ 3 ≤ 39 % 5) := by
  refine ⟨by decide, fun i _ => ?_, by decide⟩
  exact Nat.sub_lt (by positivity) Nat.one_pos

/-- Both sides of the end of the window of subframe 0, and the first and last window of subframe 1. -/
theorem witness_PitClSearches :
    ([140, 141].all fun tol => (wr (full 0x0011) .tol 0 [tol]).ready .e [.all .x, .all .h, .all .tol]) = true
    ∧ ([20, 134].all fun lo =>
        let s := wr (wr (full 0x0011) .t0min 0 [lo]) .t0max 0 [lo + 9]
        s.ready .e [.all .x, .all .h, .all .t0min, .all .t0max]
          && decide (20 ≤ s.regs.int .t0min 0 ∧ s.regs.int .t0max 0 = s.regs.int .t0min 0 + 9
            ∧ s.regs.int .t0max 0 ≤ 143)) = true := by decide +kernel

theorem witness_PitInterpVector :
    ([(19, 1), (60, 0), (144, -1)].all fun m =>
      let s := wr (wr (full 0x0011) .t0 0 [m.1]) .t0f 0 [m.2]
      s.ready .ed [.all .t0, .all .t0f] && decide (19 ≤ s.regs.int .t0 0 ∧ s.regs.int .t0 0 ≤ 144
        ∧ -1 ≤ s.regs.int .t0f 0 ∧ s.regs.int .t0f 0 ≤ 1)) = true := by decide +kernel

theorem witness_PitDecGoodSubframe :
    ([0, 255].all fun p1 =>
      let s := wr (full 0x0013) .prm 4 [p1]
      s.ready .d [needPrm 4 1] && !s.bfi && !s.pe && decide (s.regs.nat .prm 4 < 256)) = true
    ∧ ([(0, 20), (31, 134)].all fun m =>
      let s := wr (wr (full 0x0013) .prm 10 [m.1]) .t0min 0 [m.2]
      s.ready .d [needPrm 10 1, .all .t0min, .all .t0max] && !s.bfi && decide (s.regs.nat .prm 10 < 32
        ∧ 20 ≤ s.regs.int .t0min 0 ∧ s.regs.int .t0min 0 ≤ 134)) = true := by decide +kernel

theorem witness_PitDecFallback :
    ([(0x0017, 19), (0x0017, 144), (0x001B, 60)].all fun (m : BitVec 16 × I16) =>
      let s : State := { decCh with fctl := m.1, dec := { decCh.dec with pitchLast := m.2 } }
      s.ready .d [] && (s.bfi || s.pe)
        && decide (19 ≤ s.dec.pitchLast.toInt ∧ s.dec.pitchLast.toInt ≤ 144)) = true := by decide +kernel

/-- The first and last lag of each clause: 10 and 11 under either producer, 185 and 186 for subframe 1, 145
and 146 for subframe 0. -/
theorem witness_PitDecOddWindow :
    ([10, 11, 185, 186].map fun lo =>
      let s := wr (wr (full 0x0013) .prm 10 [2]) .t0min 0 [lo]
      (s.ready .d [needPrm 10 1, .all .t0min, .all .t0max] && !s.bfi && decide (s.regs.nat .prm 10 < 32),
        cfg.p2Dec (s.regs.nat .prm 10) (s.regs.int .t0min 0)))
      = [(true, 10, 0), (true, 11, 0), (true, 185, 0), (true, 186, 0)]
    ∧ ([(0x0017, 10), (0x001B, 11), (0x001B, 145), (0x0017, 146), (0x0017, 186)].map
        fun (m : BitVec 16 × I16) =>
      let s : State := { decCh with fctl := m.1, dec := { decCh.dec with pitchLast := m.2 } }
      (s.ready .d [] && (s.bfi || s.pe), s.dec.pitchLast.toInt))
      = [(true, 10), (true, 11), (true, 145), (true, 146), (true, 186)] := by decide +kernel

theorem witness_PitConvFilters : (full 0x0011).ready .e [.all .acv, .all .h] = true := by decide +kernel

theorem witness_FcbSearchConsistent :
    ([19, 39, 40, 144].all fun lag =>
      let s := wr (full 0x0011) .t0 0 [lag]
      s.ready .e [.all .x, .all .y, .all .gpu, .all .h, .all .t0]
        && decide (19 ≤ s.regs.int .t0 0 ∧ s.regs.int .t0 0 ≤ 144)) = true := by decide +kernel

theorem witness_FcbSearchFindsBest :
    ([19, 39, 40, 144].all fun lag =>
      let s := wr (full 0x0011) .t0 0 [lag]
      s.ready .e [.all .x, .all .y, .all .gpu, .all .h, .all .t0]
        && decide (19 ≤ s.regs.int .t0 0 ∧ s.regs.int .t0 0 ≤ 144)) = true := witness_FcbSearchConsistent

theorem witness_PulseEnergyNonneg : ∀ m ∈ [0, 11, 39], m < 40 := by decide

theorem witness_FcbDecGoodFrame :
    ([(19, 0, 0), (40, 8191, 15), (144, 80, 13)].all fun m =>
      let s := wr (wr (full 0x0013) .t0 0 [m.1]) .prm 6 [m.2.1, m.2.2, 0, 0, 0, m.2.1, m.2.2]
      s.ready .d [.all .t0, needPrm 6 2] && s.ready .d [.all .t0, needPrm 11 2] && !s.bfi
        && decide (19 ≤ s.regs.int .t0 0 ∧ s.regs.int .t0 0 ≤ 144 ∧ s.regs.nat .prm 6 < 2 ^ 13
          ∧ s.regs.nat .prm 7 < 2 ^ 4 ∧ s.regs.nat .prm 11 < 2 ^ 13 ∧ s.regs.nat .prm 12 < 2 ^ 4)) = true := by
  decide +kernel

theorem witness_FcbDecErasedFrame :
    let s := wr erasedCh .t0 0 [19]
    s.ready .d [.all .t0] = true ∧ s.bfi = true ∧ 19 ≤ s.regs.int .t0 0 ∧ s.regs.int .t0 0 ≤ 144 := by
  decide +kernel

theorem witness_FcbConvFilters :
    (full 0x0011).ready .ed [.all .fcv, .all .h] = true
      ∧ (full 0x0013).ready .ed [.all .fcv, .all .h] = true := by decide +kernel

theorem witness_GainPredRounded :
    (full 0x0011).ready .ed [.all .fcv] = true ∧ (full 0x0013).ready .ed [.all .fcv] = true := by
  decide +kernel

theorem witness_GainQuantMinimises :
    (full 0x0011).ready .e [.all .x, .all .y, .all .z, .all .gcp] = true := by decide +kernel

theorem witness_GainDecGoodFrame :
    let s := wr (wr (full 0x0013) .prm 8 [7, 15]) .prm 13 [0, 0]
    s.ready .d [.all .gcp, needPrm 8 2] = true ∧ s.ready .d [.all .gcp, needPrm 13 2] = true
      ∧ s.bfi = false ∧ s.regs.nat .prm 8 = (7 : Fin 8) ∧ s.regs.nat .prm 9 = (15 : Fin 16)
      ∧ s.regs.nat .prm 13 = (0 : Fin 8) ∧ s.regs.nat .prm 14 = (0 : Fin 16) := by decide +kernel

theorem witness_GainDecErasedFrame : erasedCh.ready .d [] = true ∧ erasedCh.bfi = true := by decide +kernel

theorem witness_ErasedGainsDecay :
    erasedCh.ready .d [] = true ∧ erasedCh.bfi = true
      ∧ ∃ t, exec (.gainDec .first) erasedCh = .next t := by
  have h : erasedCh.ready .d (gainDecNeeds .first erasedCh) = true := by decide +kernel
  exact ⟨by decide +kernel, by decide +kernel, _,
    by unfold exec execGainDec; exact checked_of_ready h (by decide +kernel)⟩

theorem witness_DecibelsCorrectlyRounded : 0 < 1 ∧ 0 < 65534 := by decide

theorem witness_FltHpSection :
    (full 0x0011).ready .ed [.all .pcm] = true ∧ (full 0x0011).role = .enc
      ∧ (full 0x0013).ready .ed [.all .pfout] = true ∧ (full 0x0013).role = .dec := by decide +kernel

/-- The decoder's filters, both subframes. -/
theorem witness_FltSynRecursion :
    (full 0x0013).ready .d [⟨.aq, 0, 10⟩] = true ∧ (full 0x0013).ready .d [⟨.aq, 10, 10⟩] = true := by
  decide +kernel

/-- The encoder's filters, both subframes: also for `FltWgtWeights`. -/
theorem witness_FltResResidual :
    (full 0x0011).ready .e [⟨.aq, 0, 10⟩] = true ∧ (full 0x0011).ready .e [⟨.aq, 10, 10⟩] = true := by
  decide +kernel

theorem witness_FltWgtWeights :
    (full 0x0011).ready .e [⟨.aq, 0, 10⟩] = true ∧ (full 0x0011).ready .e [⟨.aq, 10, 10⟩] = true :=
  witness_FltResResidual

theorem witness_PfResResidual :
    (full 0x0013).ready .d [⟨.aq, 0, 10⟩] = true ∧ (full 0x0013).ready .d [⟨.aq, 10, 10⟩] = true :=
  witness_FltSynRecursion

theorem witness_PfLtFilters :
    ([19, 140, 141, 144].all fun lag =>
      let s := wr (full 0x0013) .t0 0 [lag]
      s.ready .d [.all .t0] && decide (19 ≤ s.regs.int .t0 0 ∧ s.regs.int .t0 0 ≤ 144)) = true := by
  decide +kernel

theorem witness_PfTiltCompensates :
    (full 0x0013).ready .d [⟨.aq, 0, 10⟩] = true ∧ (full 0x0013).ready .d [⟨.aq, 10, 10⟩] = true :=
  witness_FltSynRecursion

theorem witness_PfStRecursion :
    (full 0x0013).ready .d [⟨.aq, 0, 10⟩, .all .tlt] = true
      ∧ (full 0x0013).ready .d [⟨.aq, 10, 10⟩, .all .tlt] = true := by decide +kernel

theorem witness_PfAgcScales : decCh.ready .d [] = true := by decide +kernel

/-- A state with the invariant whose step completes: a decoder channel about to begin a frame. -/
theorem witness_StepKeepsInv :
    let s : State := { decCh with fctl := 0x0003, port := [.command 0x0C00] }
    s.Inv ∧ ∃ t, step s = .next t := by
  refine ⟨⟨by constructor <;> decide +kernel, fun _ => by unfold State.flagsOfRole; decide +kernel,
    fun _ => ⟨rfl, rfl⟩, fun _ => ⟨rfl, rfl, rfl⟩, fun _ => by constructor <;> decide +kernel, ?_⟩,
    ⟨_, rfl⟩⟩
  intro snap h
  simp at h

/-- `FRM.BEGIN` completes and is none of the four concealing operations, nor `CH.INIT`, nor `CH.CLOSE`. -/
theorem witness_ConcealmentStateSurvives :
    let i : Instr := .frmBegin true false
    (∃ t, exec i { decCh with fctl := 0x0003 } = .next t) ∧ (∀ role, i ≠ .chInit role) ∧ i ≠ .chClose
      ∧ i ≠ .lsfDec ∧ (∀ sf, i ≠ .pitDec sf) ∧ (∀ sf, i ≠ .gainDec sf) ∧ (∀ sf, i ≠ .fcbDec sf) :=
  ⟨⟨_, rfl⟩, by simp⟩

theorem witness_FstatNeverRead :
    (∃ t, exec (.frmBegin true false) { decCh with fctl := 0x0003 } = .next t) ∧ ∃ why, exec .chClose State.reset = .refused why :=
  ⟨⟨_, rfl⟩, _, rfl⟩

theorem witness_ErasedFrameIgnoresPrm :
    erasedCh.bfi = true ∧ (∃ t, exec .lsfDec erasedCh = .next t)
      ∧ ∃ why, exec (.fcbDec .first) erasedCh = .refused why := by
  have h : erasedCh.ready .d (lsfDecNeeds erasedCh) = true := by decide +kernel
  have hr : reason (exec (.fcbDec .first) erasedCh) = some .undefinedOperand := by decide +kernel
  refine ⟨by decide +kernel, ⟨_, by unfold exec execLsfDec; exact checked_of_ready h (by decide +kernel)⟩,
    .undefinedOperand, ?_⟩
  revert hr
  unfold reason
  split
  · next why hw => intro hr; rw [hw]; simp at hr; rw [hr]
  · intro hr; simp at hr

theorem witness_AdmissionInOrder :
    roleSetOf .lpWin = some .e ∧ frameLevel .lpWin = true ∧ State.reset.isOpen = false
      ∧ (decCh.isOpen = true ∧ RoleSet.e.has decCh.role = false)
      ∧ (let s : State := { encCh with fctl := 0x0001 }
         s.isOpen = true ∧ RoleSet.e.has s.role = true ∧ s.inFrame = false)
      ∧ (encCh.isOpen = true ∧ RoleSet.e.has encCh.role = true ∧ encCh.inFrame = true
        ∧ encCh.regs.definedAt .wsig 239 = false ∧ operandsOf .lpAcorr encCh = [⟨.wsig, 0, 240⟩]) := by
  decide +kernel

/-- Check 6: `T0` = 18 and 145, `PRM[4]` = 256, a window one too wide. -/
theorem witness_AdmissionInOrder_range :
    ([18, 145].all fun lag =>
      let s := wr (full 0x0011) .t0 0 [lag]
      s.ready .ed (operandsOf (.pitInterp .first) s)
        && !decide (19 ≤ s.regs.int .t0 0 ∧ s.regs.int .t0 0 ≤ 144)) = true
    ∧ (let s := wr (full 0x0013) .prm 4 [256]
       s.ready .d (operandsOf (.pitDec .first) s) = true ∧ ¬operandsInRange (.pitDec .first) s)
    ∧ (let s := wr (full 0x0011) .t0max 0 [65]
       s.ready .e (operandsOf (.pitCl .second) s) = true ∧ ¬operandsInRange (.pitCl .second) s) := by
  unfold operandsInRange
  decide +kernel

/-- Every field at its greatest value; a register file with `PRM` defined and legal; one that is not. -/
theorem witness_FrameRoundTrip :
    (∀ i < 15, 2 ^ prmWidth i - 1 < 2 ^ [1, 7, 5, 5, 8, 1, 13, 4, 3, 4, 5, 13, 4, 3, 4].getD i 0)
    ∧ (∀ i < 15, (full 0x0011).regs.definedAt .prm i = true ∧ (full 0x0011).regs.nat .prm i = 0)
    ∧ (wr (full 0x0011) .prm 0 [2]).regs.frame = none ∧ encCh.regs.frame = none := by decide +kernel

theorem witness_HostWriteDefines :
    (⟨.prm, 13, [65535, 0]⟩ : HostWrite).wellFormed = true
      ∧ (⟨.r, 10, [-2147483648]⟩ : HostWrite).wellFormed = true
      ∧ (⟨.prm, 14, [0, 0]⟩ : HostWrite).wellFormed = false := by decide +kernel

/-- The channel's own snapshot, and one of the other role. -/
theorem witness_RestoreReinstates :
    let s : State := { encCh with port := [.restore encCh.snapshot] }
    s.port = [.restore encCh.snapshot] ∧ s.isOpen = true ∧ s.role = encCh.role ∧ encCh.absentParked
      ∧ s.absentParked ∧ encCh.role ≠ decCh.role ∧ State.reset.isOpen = false :=
  ⟨rfl, by decide +kernel, by decide +kernel, ⟨rfl, rfl, rfl, rfl, rfl⟩, ⟨rfl, rfl, rfl, rfl, rfl⟩,
    by decide +kernel, by decide +kernel⟩

end Sys2Proof.Tests
end

/-! # O3: a step serves the oldest action of the port

The first part is about the decoder: a word it accepts is the encoding of what it answers (the half of
R83 that makes a word without an instruction reserved). The second says once what a step does with each
kind of port. -/

namespace Sys2Proof

/-! ## Rows of the opcode map

A row fixes the bits of its mask; what it leaves open are the field bits, and the encoder puts exactly
those back. -/

theorem row_eq_ok_iff {w mask pattern : BitVec 16} {i j : Instr} :
    row w mask pattern i = .ok j ↔ w &&& mask = pattern ∧ i = j := by
  unfold row
  split <;> simp [*]

theorem and_or_and_of_or_eq_allOnes {n : Nat} {a b : BitVec n} (h : a ||| b = BitVec.allOnes n)
    (w : BitVec n) : (w &&& a) ||| (w &&& b) = w := by
  rw [← BitVec.and_or_distrib_left, h, BitVec.and_allOnes]

/-- Field `sf` put back is bit 9 of the word (R80). -/
theorem sfBits_sfField (w : BitVec 16) : sfBits (sfField w) = w &&& 0x0200 := by
  have hbit : w &&& 0x0200 = if w.getLsbD 9 then 0x0200 else 0 := BitVec.and_twoPow w 9
  rw [hbit, sfField]
  cases w.getLsbD 9 <;> rfl

/-- Field `a` of `CH.INIT` put back is bit 8 of the word (R80). -/
theorem encode_chInit_roleField (w : BitVec 16) :
    encode (.chInit (roleField w)) = 0x0400 ||| (w &&& 0x0100) := by
  have hbit : w &&& 0x0100 = if w.getLsbD 8 then 0x0100 else 0 := BitVec.and_twoPow w 8
  rw [hbit, roleField]
  cases w.getLsbD 8 <;> rfl

/-- Fields `a` and `b` of `FRM.BEGIN` put back are bits 8 and 7 of the word (R80). -/
theorem encode_frmBegin_fields (w : BitVec 16) :
    encode (.frmBegin (w.getLsbD 8) (w.getLsbD 7)) = 0x0C00 ||| (w &&& 0x0180) := by
  have ha : w &&& 0x0100 = if w.getLsbD 8 then 0x0100 else 0 := BitVec.and_twoPow w 8
  have hb : w &&& 0x0080 = if w.getLsbD 7 then 0x0080 else 0 := BitVec.and_twoPow w 7
  calc encode (.frmBegin (w.getLsbD 8) (w.getLsbD 7))
      = 0x0C00 ||| (w &&& 0x0100) ||| (w &&& 0x0080) := by rw [ha, hb, encode]
    _ = 0x0C00 ||| (w &&& 0x0180) := by rw [BitVec.or_assoc, ← BitVec.and_or_distrib_left]; rfl

/-- A row whose open bits are `fields`: the word is the encoding of the instruction, once the encoder
puts those bits of the word back. -/
theorem eq_encode_of_row {w mask pattern fields : BitVec 16} {i j : Instr}
    (h : row w mask pattern i = .ok j) (hall : mask ||| fields = BitVec.allOnes 16)
    (hi : encode i = pattern ||| (w &&& fields)) : w = encode j := by
  obtain ⟨hmatch, rfl⟩ := row_eq_ok_iff.mp h
  rw [hi, ← hmatch, and_or_and_of_or_eq_allOnes hall]

/-- A row without fields. -/
theorem eq_encode_of_row_exact {w pattern : BitVec 16} {i j : Instr}
    (h : row w 0xFFFF pattern i = .ok j) (hi : encode i = pattern) : w = encode j :=
  eq_encode_of_row (fields := 0) h rfl (by simp [hi])

/-- A row whose one field is `sf`. -/
theorem eq_encode_of_row_sf {w pattern : BitVec 16} {f : Subframe → Instr} {j : Instr}
    (h : row w 0xFDFF pattern (f (sfField w)) = .ok j)
    (hf : ∀ sf, encode (f sf) = pattern ||| sfBits sf) : w = encode j :=
  eq_encode_of_row (fields := 0x0200) h rfl (by rw [hf, sfBits_sfField])

/-- R83: a word that decodes is the encoding of the instruction it decodes to. The cases are the arms of
`decode` in order: `CH.INIT` and `FRM.BEGIN` with fields of their own, the rows without a field, those
with `sf`, and the unassigned values of `op`. -/
theorem eq_encode_of_decode_eq_ok {w : BitVec 16} {i : Instr} (h : decode w = .ok i) : w = encode i := by
  unfold decode at h
  split at h
  case h_1 => exact eq_encode_of_row h rfl (encode_chInit_roleField w)
  case h_3 => exact eq_encode_of_row h rfl (encode_frmBegin_fields w)
  case h_2 | h_5 | h_6 | h_7 | h_8 | h_9 | h_10 | h_11 | h_13 | h_14 | h_15 | h_19 | h_22 | h_23 | h_26 =>
    exact eq_encode_of_row_exact h rfl
  case h_4 | h_12 | h_16 | h_17 | h_18 | h_20 | h_21 | h_24 | h_25 | h_27 | h_28 | h_29 | h_30 | h_31
      | h_32 | h_33 | h_34 =>
    exact eq_encode_of_row_sf h fun _ => rfl
  case h_35 => cases h

/-- R84: a word that encodes no instruction is reserved. -/
theorem exists_decode_eq_error {w : BitVec 16} (h : ∀ i, w ≠ encode i) : ∃ r, decode w = .error r := by
  cases hd : decode w with
  | error r => exact ⟨r, rfl⟩
  | ok i => exact absurd (eq_encode_of_decode_eq_ok hd) (h i)

end Sys2Proof

namespace Sys2Proof.Machine

/-! ## What a step does, by what stands at the port -/

theorem command_of_decode_ok {w : BitVec 16} {i : Instr} (h : decode w = .ok i) (s : State) :
    command w s = exec i s := by
  simp only [command, h]

theorem command_of_decode_error {w : BitVec 16} {r : Reserved} (h : decode w = .error r) (s : State) :
    command w s = .refused .reservedEncoding := by
  simp only [command, h]

theorem step_of_port_nil {s : State} (h : s.port = []) : step s = .next s := by
  simp only [step, serveNext, h]

theorem step_of_port_cons {s : State} {a : HostAct} {rest : List HostAct} (h : s.port = a :: rest) :
    step s = act { s with port := rest } a := by
  simp only [step, serveNext, h]

theorem step_of_port_command {s : State} {w : BitVec 16} {rest : List HostAct}
    (h : s.port = .command w :: rest) : step s = command w { s with port := rest } :=
  step_of_port_cons h

/-- Settles O3: the oldest action is a command word, which decodes or is reserved, or there is none. -/
theorem stepServesPort : Obligations.StepServesPort := by
  intro s w rest
  refine ⟨fun i hport hdecode => ?decodes, fun hport hreserved => ?reserved, step_of_port_nil⟩
  case decodes => rw [step_of_port_command hport, command_of_decode_ok hdecode]
  case reserved =>
    obtain ⟨r, hdecode⟩ := exists_decode_eq_error hreserved
    rw [step_of_port_command hport, command_of_decode_error hdecode]

end Sys2Proof.Machine

/-! # O52, O53: the invariant of the machine

A command that completes writes only what its channel's role owns: its outcome flags, its channel state
and its buffers. `StaysInRole` is that fact as a relation between two states; every update the commands
are built of keeps it, and the invariant follows from it. What is left are the three commands that do more
to the control registers (`CH.INIT`, `CH.CLOSE`, `FRM.BEGIN`) and the host's own actions. -/

namespace Sys2Proof

theorem Vec.eq_of_toList_eq {α : Type} {n : Nat} {v w : Vec α n} (h : v.toList = w.toList) : v = w := by
  cases v
  cases w
  cases h
  rfl

/-! ## What a role owns -/

open Machine in
/-- The outcome flags the operations of a role set (R23, R82). -/
def Role.ownsFlag : Role → StatFlag → Bool
  | .enc, .rootFail | .enc, .r0Floor => true
  | .dec, .ltOff | .dec, .tiltOff | .dec, .conceal => true
  | _, _ => false

open Machine in
/-- The buffers of a role (R60). -/
def Role.ownsBuf : Role → Buf → Bool
  | .enc, .sig | .enc, .wsp => true
  | .dec, .speech | .dec, .pfres | .dec, .ltf | .dec, .stf => true
  | _, .exc => true
  | _, _ => false

end Sys2Proof

namespace Sys2Proof.Machine

-- One proof at a time: proofs elaborated side by side each hold a thread and its stack (as in the tests).
set_option Elab.async false

/-- From `s` to `t` only what the role of `s` owns has changed, and `FCTL.INFRAME`; the bounded gain is
still bounded. -/
structure StaysInRole (s t : State) : Prop where
  fctl : ∀ k, k ≠ 4 → t.fctl.getLsbD k = s.fctl.getLsbD k
  fstat : ∀ k, (∀ f, s.role.ownsFlag f = true → k ≠ f.bit) → t.fstat.getLsbD k = s.fstat.getLsbD k
  port : t.port = s.port
  enc : s.role = .dec → t.enc = s.enc
  dec : s.role = .enc → t.dec = s.dec
  bufs : ∀ b, s.role.ownsBuf b = false → t.bufs.samples b = s.bufs.samples b
  bounded : s.dec.gainBounded → t.dec.gainBounded

/-! ## Buffers other than the one written -/

theorem ne_of_owned {r : Role} {b b' : Buf} (hb : r.ownsBuf b = true) (hb' : r.ownsBuf b' = false) :
    b' ≠ b := by
  rintro rfl
  simp [hb] at hb'

theorem owns_of_mem_shiftedBufs {r : Role} {b : Buf} (h : b ∈ shiftedBufs r) : r.ownsBuf b = true := by
  revert h
  cases r <;> cases b <;> decide

theorem Buffers.samples_fill_of_ne {b b' : Buf} (h : b' ≠ b) (base : Int) (f : Buffers → Nat → I16)
    (n : Nat) (bs : Buffers) : (Buffers.fill b base f n bs).samples b' = bs.samples b' := by
  induction n with
  | zero => rfl
  | succ n ih => rw [Buffers.fill, Buffers.samples_write, if_neg fun hw => h hw.1, ih]

theorem Buffers.samples_foldl_shiftFrame {b' : Buf} {l : List Buf} (h : ∀ b ∈ l, b' ≠ b)
    (bs : Buffers) : (l.foldl Buffers.shiftFrame bs).samples b' = bs.samples b' := by
  induction l generalizing bs with
  | nil => rfl
  | cons b l ih =>
    obtain ⟨hb, hl⟩ := List.forall_mem_cons.mp h
    rw [List.foldl_cons, ih hl, Buffers.shiftFrame, Buffers.samples_fill_of_ne hb]

namespace StaysInRole

theorem refl (s : State) : StaysInRole s s :=
  ⟨fun _ _ => rfl, fun _ _ => rfl, rfl, fun _ => rfl, fun _ => rfl, fun _ _ => rfl, id⟩

variable {s t : State}

/-! What the accessors read of `FCTL` but `INFRAME` is as before. -/

theorem isOpen_eq (h : StaysInRole s t) : t.isOpen = s.isOpen := h.fctl 0 (by decide)

theorem role_eq (h : StaysInRole s t) : t.role = s.role := by
  rw [State.role, h.fctl 1 (by decide), State.role]

theorem bfi_eq (h : StaysInRole s t) : t.bfi = s.bfi := h.fctl 2 (by decide)

theorem pe_eq (h : StaysInRole s t) : t.pe = s.pe := h.fctl 3 (by decide)

/-- The outcome flags of the other role are as before. -/
theorem flag_eq (h : StaysInRole s t) {f : StatFlag} (hf : s.role.ownsFlag f = false) :
    t.flag f = s.flag f := by
  refine h.fstat f.bit fun f' hf' hbit => ?_
  have hff' : f = f' := by revert hbit; cases f <;> cases f' <;> decide
  simp [← hff', hf] at hf'

/-! ## The updates the commands are built of -/

theorem setAll (h : StaysInRole s t) {reg : Reg} {f : Nat → BitVec reg.width} :
    StaysInRole s (t.setAll reg f) := { h with }

theorem setFrom (h : StaysInRole s t) {reg : Reg} {first count : Nat} {f : Nat → BitVec reg.width} :
    StaysInRole s (t.setFrom reg first count f) := { h with }

theorem setPitch (h : StaysInRole s t) {lag f : Int} {v : List I16} :
    StaysInRole s (t.setPitch lag f v) := { h with }

theorem setWindow (h : StaysInRole s t) {c : Config} {lag : Int} :
    StaysInRole s (State.setWindow c t lag) := { h with }

theorem setGains (h : StaysInRole s t) {p : I16} {g : I32} : StaysInRole s (t.setGains p g) := { h with }

theorem writeFlag (h : StaysInRole s t) {f : StatFlag} {b : Bool} (hf : s.role.ownsFlag f = true) :
    StaysInRole s (t.writeFlag f b) :=
  { h with fstat := fun k hk => (t.getLsbD_writeFlag f b (hk f hf)).trans (h.fstat k hk) }

theorem raiseFlag (h : StaysInRole s t) {f : StatFlag} {b : Bool} (hf : s.role.ownsFlag f = true) :
    StaysInRole s (t.raiseFlag f b) := by
  cases b
  · exact h
  · exact h.writeFlag hf

theorem fill (h : StaysInRole s t) {b : Buf} {base : Int} {f : Buffers → Nat → I16} {n : Nat}
    (hb : s.role.ownsBuf b = true) :
    StaysInRole s { t with bufs := Buffers.fill b base f n t.bufs } :=
  { h with bufs := fun b' hb' =>
      (Buffers.samples_fill_of_ne (ne_of_owned hb hb') ..).trans (h.bufs b' hb') }

theorem fillSubframe (h : StaysInRole s t) {b : Buf} {sf : Subframe} {f : Buffers → Nat → I16}
    (hb : s.role.ownsBuf b = true) : StaysInRole s (t.fillSubframe b sf f) := h.fill hb

/-- The encoder state of an encoder channel. -/
theorem setEnc (h : StaysInRole s t) (hr : s.role = .enc) {e : EncState} :
    StaysInRole s { t with enc := e } :=
  { h with enc := fun hr' => by simp [hr] at hr' }

/-- The decoder state of a decoder channel, its bounded gain still bounded. -/
theorem setDec (h : StaysInRole s t) (hr : s.role = .dec) {d : DecState}
    (hd : t.dec.gainBounded → d.gainBounded := by exact id) : StaysInRole s { t with dec := d } :=
  { h with dec := fun hr' => by simp [hr] at hr', bounded := fun hs => hd (h.bounded hs) }

theorem recordGp (h : StaysInRole s t) : StaysInRole s t.recordGp := by
  unfold State.recordGp
  split
  next hr => exact h.setEnc (h.role_eq ▸ hr)
  next => exact h

theorem setQlspPrev (h : StaysInRole s t) {f : Nat → I16} : StaysInRole s (t.setQlspPrev f) := by
  unfold State.setQlspPrev
  split
  next hr => exact h.setEnc (h.role_eq ▸ hr)
  next hr => exact h.setDec (h.role_eq ▸ hr)

end StaysInRole

/-! ## The effects of the commands -/

theorem updFrm_staysInRole (s : State) : StaysInRole s (updFrm s) where
  __ := (StaysInRole.refl s).setQlspPrev (f := fun i => sat16 (s.regs.int .qlsp i))
  fctl k hk := by simp [updFrm, fctlEnded, getLsbD_setBit, hk]
  bufs b hb := Buffers.samples_foldl_shiftFrame (fun b' hb' => ne_of_owned (owns_of_mem_shiftedBufs hb') hb)
    s.bufs

section
variable {s : State} (c : Config)

theorem excMix_staysInRole (sf : Subframe) : StaysInRole s (excMix c sf s) :=
  ((StaysInRole.refl s).fillSubframe (by cases s.role <;> rfl)).recordGp

theorem fltHp_staysInRole : StaysInRole s (fltHp c s) := by
  unfold fltHp
  split
  case h_1 hr =>
    have hmem : StaysInRole s { s with enc := (fltHpEnc c s).enc } := (StaysInRole.refl s).setEnc hr
    exact hmem.fill (b := .sig) (by rw [hr]; rfl)
  case h_2 hr => exact (StaysInRole.refl s).setAll.setDec hr

/-! On an encoder channel. -/

theorem lpAcorr_staysInRole (hr : s.role = .enc) : StaysInRole s (lpAcorr c s) :=
  (StaysInRole.refl s).setAll.setAll.raiseFlag (by rw [hr]; rfl)

theorem lpLevWrite_staysInRole (hr : s.role = .enc) (st : Levinson) :
    StaysInRole s (lpLevWrite c st s) :=
  (StaysInRole.refl s).setAll.setAll.setAll.raiseFlag (by rw [hr]; rfl)

theorem lspRoot_staysInRole (hr : s.role = .enc) : StaysInRole s (lspRoot c s) :=
  ((StaysInRole.refl s).setAll.raiseFlag (by rw [hr]; rfl)).setEnc hr

theorem pitCl_staysInRole (sf : Subframe) : StaysInRole s (pitCl c sf s) := by
  cases sf
  · exact (StaysInRole.refl s).setPitch.setFrom.setFrom.setWindow
  · exact (StaysInRole.refl s).setPitch.setFrom

theorem fcbSearch_staysInRole (sf : Subframe) : StaysInRole s (fcbSearch c sf s) :=
  (StaysInRole.refl s).setAll.setAll.setFrom.setFrom.setAll

theorem gainQuant_staysInRole (hr : s.role = .enc) (sf : Subframe) :
    StaysInRole s (gainQuant c sf s) :=
  (StaysInRole.refl s).setGains.setFrom.setFrom.setEnc hr

theorem fltRes_staysInRole (sf : Subframe) : StaysInRole s (fltRes c sf s) :=
  (StaysInRole.refl s).fillSubframe (by cases s.role <;> rfl)

theorem fltWgt_staysInRole (hr : s.role = .enc) (sf : Subframe) : StaysInRole s (fltWgt c sf s) :=
  (StaysInRole.refl s).fillSubframe (by rw [hr]; rfl)

/-! On a decoder channel. -/

theorem lsfDec_staysInRole (hr : s.role = .dec) : StaysInRole s (lsfDec c s) := by
  unfold lsfDec
  split
  · exact ((StaysInRole.refl s).setAll.setDec hr).raiseFlag (f := .conceal) (by rw [hr]; rfl)
  · exact (StaysInRole.refl s).setAll.setDec hr

theorem pitDec_staysInRole (hr : s.role = .dec) (sf : Subframe) : StaysInRole s (pitDec c sf s) := by
  cases sf
  · exact ((StaysInRole.refl s).setPitch.setDec hr).setWindow.raiseFlag (f := .conceal) (by rw [hr]; rfl)
  · exact ((StaysInRole.refl s).setPitch.setDec hr).raiseFlag (f := .conceal) (by rw [hr]; rfl)

theorem fcbDec_staysInRole (hr : s.role = .dec) (sf : Subframe) : StaysInRole s (fcbDec c sf s) := by
  unfold fcbDec
  split
  · exact ((StaysInRole.refl s).setAll.setDec hr).raiseFlag (f := .conceal) (by rw [hr]; rfl)
  · exact (StaysInRole.refl s).setAll

/-- R222: the bounds of R8 are 3277 and 13107 in format `Q_GP`, and the clamp is between them. -/
theorem boundedGain_cfg (g : Int) : 3277 ≤ boundedGain cfg g ∧ boundedGain cfg g ≤ 13107 := by
  have hmin : q cfg.betaMin cfg.qGp = 3277 := by
    show ⌊(1 / 5 * 2 ^ 14 + 1 / 2 : Rat)⌋ = 3277
    norm_num
  have hmax : q cfg.betaMax cfg.qGp = 13107 := by
    show ⌊(4 / 5 * 2 ^ 14 + 1 / 2 : Rat)⌋ = 13107
    norm_num
  rw [boundedGain, hmin, hmax, clamp]
  omega

theorem gainBounded_setDecGains (p : I16) (g : I32) (u : I16) :
    (State.setDecGains cfg s p g u).dec.gainBounded := by
  have hb := boundedGain_cfg p.toInt
  simp only [DecState.gainBounded, State.setDecGains, sat16_toInt]
  omega

theorem setDecGains_staysInRole (hr : s.role = .dec) (p : I16) (g : I32) (u : I16) :
    StaysInRole s (State.setDecGains cfg s p g u) :=
  (StaysInRole.refl s).setGains.setDec hr fun _ => gainBounded_setDecGains p g u

theorem gainDec_staysInRole (hr : s.role = .dec) (sf : Subframe) : StaysInRole s (gainDec cfg sf s) := by
  unfold gainDec
  split
  · exact (setDecGains_staysInRole hr ..).raiseFlag (by rw [hr]; rfl)
  · exact setDecGains_staysInRole hr ..

theorem fltSyn_staysInRole (hr : s.role = .dec) (sf : Subframe) : StaysInRole s (fltSyn c sf s) :=
  (StaysInRole.refl s).fillSubframe (by rw [hr]; rfl)

theorem pfRes_staysInRole (hr : s.role = .dec) (sf : Subframe) : StaysInRole s (pfRes c sf s) :=
  (StaysInRole.refl s).fillSubframe (by rw [hr]; rfl)

theorem pfLt_staysInRole (hr : s.role = .dec) (sf : Subframe) : StaysInRole s (pfLt c sf s) :=
  ((StaysInRole.refl s).fillSubframe (by rw [hr]; rfl)).writeFlag (by rw [hr]; rfl)

theorem pfTilt_staysInRole (hr : s.role = .dec) (sf : Subframe) : StaysInRole s (pfTilt c sf s) :=
  (StaysInRole.refl s).setAll.setAll.writeFlag (by rw [hr]; rfl)

theorem pfSt_staysInRole (hr : s.role = .dec) (sf : Subframe) : StaysInRole s (pfSt c sf s) :=
  (StaysInRole.refl s).fillSubframe (by rw [hr]; rfl)

theorem pfAgc_staysInRole (hr : s.role = .dec) (sf : Subframe) : StaysInRole s (pfAgc c sf s) :=
  (StaysInRole.refl s).setFrom.setDec hr

end

/-! ## The commands -/

theorem role_of_has_e {r : Role} (h : RoleSet.e.has r = true) : r = .enc := by
  cases r
  · rfl
  · cases h

theorem role_of_has_d {r : Role} (h : RoleSet.d.has r = true) : r = .dec := by
  cases r
  · cases h
  · rfl

section
variable {roles : RoleSet} {needs : List Need} {inRange : Bool} {s t u : State} {body : Result}

/-- A command that completes has passed the check of its role (R358 check 3) and does what its body does. -/
theorem has_role_of_checked (h : checked roles needs inRange s body = .next t) :
    roles.has s.role = true ∧ body = .next t := by
  obtain ⟨hready, -, hnext⟩ := checked_eq_next.mp h
  obtain ⟨-, hrole, -⟩ := (s.ready_iff ..).mp hready
  exact ⟨hrole, hnext⟩

theorem staysInRole_of_next (h : (.next u : Result) = .next t) (hu : StaysInRole s u) :
    StaysInRole s t := by
  cases h
  exact hu

theorem staysInRole_of_checked {i : Instr}
    (h : checked roles needs inRange s (.next (realised cfg i s u)) = .next t)
    (hu : roles.has s.role = true → StaysInRole s u) : StaysInRole s t := by
  obtain ⟨hrole, hnext⟩ := has_role_of_checked h
  rw [realised_cfg] at hnext
  exact staysInRole_of_next hnext (hu hrole)
end

/-- A command of R82 that has to stand in an open frame stays in its channel's role. -/
theorem exec_staysInRole {i : Instr} {s t : State} (hi : frameLevel i = true)
    (h : exec i s = .next t) : StaysInRole s t := by
  have start : StaysInRole s s := .refl s
  cases i with
  | chInit | chClose | frmBegin => cases hi
  | updFrm =>
    obtain ⟨-, hnext⟩ := has_role_of_checked h
    exact staysInRole_of_next hnext (updFrm_staysInRole s)
  | lpLag =>
    obtain ⟨-, hnext⟩ := has_role_of_checked h
    obtain ⟨-, hnext⟩ := require_eq_next.mp hnext
    exact staysInRole_of_next hnext start.setAll
  | lpLev =>
    obtain ⟨hrole, hnext⟩ := has_role_of_checked h
    unfold lpLev at hnext
    split at hnext
    · cases hnext
    · exact staysInRole_of_next hnext (lpLevWrite_staysInRole cfg (role_of_has_e hrole) _)
  | pitDec sf =>
    obtain ⟨hrole, hnext⟩ := has_role_of_checked h
    obtain ⟨-, hnext⟩ := require_eq_next.mp hnext
    obtain ⟨-, hnext⟩ := require_eq_next.mp hnext
    exact staysInRole_of_next hnext (pitDec_staysInRole cfg (role_of_has_d hrole) sf)
  | pfLt sf =>
    obtain ⟨hrole, hnext⟩ := has_role_of_checked h
    obtain ⟨-, hnext⟩ := require_eq_next.mp hnext
    exact staysInRole_of_next hnext (pfLt_staysInRole cfg (role_of_has_d hrole) sf)
  | lpWin | pitInterp | pitConv | fcbConv | gainPred | lspInterp | lsfStab | lsfCos =>
    exact staysInRole_of_checked h fun _ => start.setAll
  | lspTolp => exact staysInRole_of_checked h fun _ => start.setFrom
  | excMix sf => exact staysInRole_of_checked h fun _ => excMix_staysInRole cfg sf
  | fltHp => exact staysInRole_of_checked h fun _ => fltHp_staysInRole cfg
  | pitCl sf => exact staysInRole_of_checked h fun _ => pitCl_staysInRole cfg sf
  | fcbSearch sf => exact staysInRole_of_checked h fun _ => fcbSearch_staysInRole cfg sf
  | fltRes sf => exact staysInRole_of_checked h fun _ => fltRes_staysInRole cfg sf
  | lpAcorr => exact staysInRole_of_checked h fun hr => lpAcorr_staysInRole cfg (role_of_has_e hr)
  | lspRoot => exact staysInRole_of_checked h fun hr => lspRoot_staysInRole cfg (role_of_has_e hr)
  | gainQuant sf =>
    exact staysInRole_of_checked h fun hr => gainQuant_staysInRole cfg (role_of_has_e hr) sf
  | fltWgt sf => exact staysInRole_of_checked h fun hr => fltWgt_staysInRole cfg (role_of_has_e hr) sf
  | lsfDec => exact staysInRole_of_checked h fun hr => lsfDec_staysInRole cfg (role_of_has_d hr)
  | fcbDec sf => exact staysInRole_of_checked h fun hr => fcbDec_staysInRole cfg (role_of_has_d hr) sf
  | gainDec sf => exact staysInRole_of_checked h fun hr => gainDec_staysInRole (role_of_has_d hr) sf
  | fltSyn sf => exact staysInRole_of_checked h fun hr => fltSyn_staysInRole cfg (role_of_has_d hr) sf
  | pfRes sf => exact staysInRole_of_checked h fun hr => pfRes_staysInRole cfg (role_of_has_d hr) sf
  | pfTilt sf => exact staysInRole_of_checked h fun hr => pfTilt_staysInRole cfg (role_of_has_d hr) sf
  | pfSt sf => exact staysInRole_of_checked h fun hr => pfSt_staysInRole cfg (role_of_has_d hr) sf
  | pfAgc sf => exact staysInRole_of_checked h fun hr => pfAgc_staysInRole cfg (role_of_has_d hr) sf

/-! ## The parts of the invariant -/

theorem extractLsb'_reserved_eq_zero_iff (w : BitVec 16) :
    w.extractLsb' 5 11 = 0 ↔ ∀ k, 5 ≤ k → w.getLsbD k = false := by
  constructor
  · intro h k hk
    have hbit := congrArg (·.getLsbD (k - 5)) h
    by_cases hk16 : k < 16
    · simpa [show k - 5 < 11 by omega, show 5 + (k - 5) = k by omega] using hbit
    · exact BitVec.getLsbD_of_ge w k (by omega)
  · intro h
    ext j hj
    simpa using h (5 + j) (by omega)

namespace StaysInRole
variable {s t : State}

theorem reservedClear (h : StaysInRole s t) (hs : s.reservedClear) : t.reservedClear := by
  simp only [State.reservedClear, extractLsb'_reserved_eq_zero_iff] at hs ⊢
  obtain ⟨hfctl, hfstat⟩ := hs
  refine ⟨fun k hk => ?_, fun k hk => ?_⟩
  · rw [h.fctl k (by omega), hfctl k hk]
  · have hne : ∀ f : StatFlag, k ≠ f.bit := by
      intro f
      cases f <;> simp only [StatFlag.bit] <;> omega
    rw [h.fstat k fun f _ => hne f, hfstat k hk]

theorem flagsOfRole (h : StaysInRole s t) (hs : s.flagsOfRole) : t.flagsOfRole := by
  rw [State.flagsOfRole, h.role_eq, h.bfi_eq, h.pe_eq]
  exact hs

theorem outcomesOfRole (h : StaysInRole s t) (hs : s.outcomesOfRole) : t.outcomesOfRole := by
  have hflag : ∀ f, s.role.ownsFlag f = false → t.flag f = s.flag f := fun _ => h.flag_eq
  unfold State.outcomesOfRole at hs ⊢
  rw [h.role_eq]
  cases hr : s.role <;> rw [hr] at hs hflag
  · rwa [hflag .ltOff rfl, hflag .tiltOff rfl, hflag .conceal rfl]
  · rwa [hflag .rootFail rfl, hflag .r0Floor rfl]

theorem absentParked (h : StaysInRole s t) (hs : s.absentParked) : t.absentParked := by
  have hbufs := h.bufs
  unfold State.absentParked at hs ⊢
  rw [h.role_eq]
  cases hr : s.role <;> rw [hr] at hs hbufs
  case enc =>
    have hspeech : t.bufs.speech = s.bufs.speech := Vec.eq_of_toList_eq (hbufs .speech rfl)
    have hpfres : t.bufs.pfres = s.bufs.pfres := Vec.eq_of_toList_eq (hbufs .pfres rfl)
    have hltf : t.bufs.ltf = s.bufs.ltf := Vec.eq_of_toList_eq (hbufs .ltf rfl)
    have hstf : t.bufs.stf = s.bufs.stf := Vec.eq_of_toList_eq (hbufs .stf rfl)
    simpa only [h.dec hr, hspeech, hpfres, hltf, hstf] using hs
  case dec =>
    have hsig : t.bufs.sig = s.bufs.sig := Vec.eq_of_toList_eq (hbufs .sig rfl)
    have hwsp : t.bufs.wsp = s.bufs.wsp := Vec.eq_of_toList_eq (hbufs .wsp rfl)
    simpa only [h.enc hr, hsig, hwsp] using hs

/-- What stays in the role of the channel keeps the invariant. -/
theorem inv (h : StaysInRole s t) (hs : s.Inv) : t.Inv where
  reserved := h.reservedClear hs.reserved
  flags hopen := h.flagsOfRole (hs.flags (h.isOpen_eq ▸ hopen))
  outcomes hopen := h.outcomesOfRole (hs.outcomes (h.isOpen_eq ▸ hopen))
  parked hopen := h.absentParked (hs.parked (h.isOpen_eq ▸ hopen))
  bounded hopen := h.bounded (hs.bounded (h.isOpen_eq ▸ hopen))
  snapshots := by
    rw [State.snapshotsBounded, h.port]
    exact hs.snapshots

end StaysInRole

/-! ## The lifecycle commands (R335 to R337) -/

theorem flag_fresh (c : Config) (fctl : BitVec 16) (port : List HostAct) (closes : Nat) (f : StatFlag) :
    (State.fresh c fctl port closes).flag f = false := BitVec.getLsbD_zero

/-- The values of R50 have the invariant, whatever `FCTL` says of role and frame, if it has no reserved
bit and no erasure flag. -/
theorem inv_fresh {fctl : BitVec 16} {port : List HostAct} {closes : Nat}
    (hfctl : fctl.extractLsb' 5 11 = 0) (hbfi : fctl.getLsbD 2 = false) (hpe : fctl.getLsbD 3 = false)
    (hport : ∀ snap, .restore snap ∈ port → snap.dec.gainBounded) :
    (State.fresh cfg fctl port closes).Inv where
  reserved := ⟨hfctl, BitVec.extractLsb'_zero⟩
  flags _ _ := ⟨hbfi, hpe⟩
  outcomes _ := by
    unfold State.outcomesOfRole
    split
    · exact ⟨flag_fresh .., flag_fresh .., flag_fresh ..⟩
    · exact ⟨flag_fresh .., flag_fresh ..⟩
  parked _ := by
    unfold State.absentParked
    split
    · exact ⟨rfl, rfl, rfl, rfl, rfl⟩
    · exact ⟨rfl, rfl, rfl⟩
  bounded _ := by
    show 3277 ≤ cfg.initGpLast.toInt ∧ cfg.initGpLast.toInt ≤ 13107
    decide
  snapshots := hport

theorem execChInit_inv {role : Role} {s t : State} (hs : s.Inv) (h : execChInit role s = .next t) :
    t.Inv := by
  unfold execChInit at h
  split at h
  · cases h
  · cases h
    exact inv_fresh (by cases role <;> rfl) (by cases role <;> rfl) (by cases role <;> rfl) hs.snapshots

/-- Of a closed channel the invariant asks the reserved bits alone. -/
theorem inv_of_not_isOpen {s : State} (hopen : s.isOpen = false) (hreserved : s.reservedClear)
    (hsnap : s.snapshotsBounded) : s.Inv where
  reserved := hreserved
  flags h := by simp [hopen] at h
  outcomes h := by simp [hopen] at h
  parked h := by simp [hopen] at h
  bounded h := by simp [hopen] at h
  snapshots := hsnap

theorem closed_reservedClear (s : State) : s.closed.reservedClear := by
  simp only [State.reservedClear, extractLsb'_reserved_eq_zero_iff, State.closed, fctlClosed]
  have hmask : ∀ m : BitVec 16, m.extractLsb' 5 11 = 0 → ∀ (w : BitVec 16) k, 5 ≤ k →
      (w &&& m).getLsbD k = false := by
    intro m hm w k hk
    rw [BitVec.getLsbD_and, (extractLsb'_reserved_eq_zero_iff m).mp hm k hk, Bool.and_false]
  exact ⟨hmask _ rfl _, hmask _ rfl _⟩

theorem execChClose_inv {s t : State} (hs : s.Inv) (h : execChClose s = .next t) : t.Inv := by
  unfold execChClose at h
  split at h
  · cases h
  · cases h
    exact inv_of_not_isOpen s.closed_isOpen (closed_reservedClear s) hs.snapshots

theorem getLsbD_fctlBegun (w : BitVec 16) (bfi pe : Bool) (k : Nat) :
    (fctlBegun w bfi pe).getLsbD k
      = if k = 4 then true else if k = 3 then pe else if k = 2 then bfi else w.getLsbD k := by
  simp only [fctlBegun, getLsbD_setBit _ (show 2 < 16 by decide), getLsbD_setBit _ (show 3 < 16 by decide),
    getLsbD_setBit _ (show 4 < 16 by decide)]

theorem reserved_fctlBegun {w : BitVec 16} (h : w.extractLsb' 5 11 = 0) (bfi pe : Bool) :
    (fctlBegun w bfi pe).extractLsb' 5 11 = 0 := by
  rw [extractLsb'_reserved_eq_zero_iff] at h ⊢
  intro k hk
  rw [getLsbD_fctlBegun, if_neg (by omega), if_neg (by omega), if_neg (by omega), h k hk]

/-- `FRM.BEGIN` latches no erasure flag on an encoder channel, clears the outcome flags, and touches no
channel state and no buffer (R337). -/
theorem execFrmBegin_inv {bfi pe : Bool} {s t : State} (hs : s.Inv)
    (h : execFrmBegin bfi pe s = .next t) : t.Inv := by
  unfold execFrmBegin at h
  split_ifs at h with hclosed _ herased
  obtain rfl := Host.Outcome.next.inj h
  have hbit := getLsbD_fctlBegun s.fctl bfi pe
  have hopen : s.isOpen = true := by simpa using hclosed
  have hrole : State.role { s with
      fctl := fctlBegun s.fctl bfi pe, fstat := 0, regs := s.regs.begun s.role } = s.role := by
    simp only [State.role, hbit]
    rfl
  exact {
    reserved := by
      obtain ⟨hreserved, -⟩ := hs.reserved
      exact ⟨reserved_fctlBegun hreserved bfi pe, BitVec.extractLsb'_zero⟩
    flags := fun _ henc => by
      rw [hrole] at henc
      obtain ⟨hbfi, hpe⟩ : bfi = false ∧ pe = false := by simpa [henc] using herased
      exact ⟨(hbit 2).trans hbfi, (hbit 3).trans hpe⟩
    outcomes := fun _ => by
      unfold State.outcomesOfRole
      split
      · exact ⟨BitVec.getLsbD_zero, BitVec.getLsbD_zero, BitVec.getLsbD_zero⟩
      · exact ⟨BitVec.getLsbD_zero, BitVec.getLsbD_zero⟩
    parked := fun _ => by
      have hparked := hs.parked hopen
      unfold State.absentParked at hparked ⊢
      rwa [hrole]
    bounded := fun _ => hs.bounded hopen
    snapshots := hs.snapshots }

/-! ## Every action of the host -/

theorem exec_inv {i : Instr} {s t : State} (hs : s.Inv) (h : exec i s = .next t) : t.Inv := by
  cases hi : frameLevel i
  case true => exact (exec_staysInRole hi h).inv hs
  case false =>
    cases i with
    | chInit role => exact execChInit_inv hs h
    | chClose => exact execChClose_inv hs h
    | frmBegin bfi pe => exact execFrmBegin_inv hs h
    | _ => cases hi

theorem hostWrite_inv {hw : HostWrite} {s t : State} (hs : s.Inv) (h : hostWrite hw s = .next t) :
    t.Inv := by
  unfold hostWrite at h
  split at h
  · exact (staysInRole_of_next h (StaysInRole.refl s).setFrom).inv hs
  · cases h

theorem Buffers.samples_restore_of_not_owned {r : Role} {b : Buf} (hb : r.ownsBuf b = false) (bs saved : Buffers) :
    (bs.restore saved r).samples b = bs.samples b := by
  cases r <;> cases b <;> simp [Role.ownsBuf] at hb <;> rfl

/-- A restore puts back what the role owns. -/
theorem restored_staysInRole {s : State} {snap : Snapshot} (hrole : s.role = snap.role)
    (hsnap : snap.dec.gainBounded) : StaysInRole s (s.restored snap) := by
  unfold State.restored
  split
  case h_1 hr =>
    exact { (StaysInRole.refl s).setEnc (hrole.trans hr) (e := snap.enc) with
      bufs := fun b hb => by
        rw [hrole, hr] at hb
        exact Buffers.samples_restore_of_not_owned hb .. }
  case h_2 hr =>
    exact { (StaysInRole.refl s).setDec (hrole.trans hr) (d := snap.dec) (fun _ => hsnap) with
      bufs := fun b hb => by
        rw [hrole, hr] at hb
        exact Buffers.samples_restore_of_not_owned hb .. }

theorem hostRestore_inv {snap : Snapshot} {s t : State} (hs : s.Inv) (hsnap : snap.dec.gainBounded)
    (h : hostRestore snap s = .next t) : t.Inv := by
  unfold hostRestore at h
  split at h
  next hmatch =>
    obtain ⟨-, hrole⟩ := hmatch
    exact (staysInRole_of_next h (restored_staysInRole hrole hsnap)).inv hs
  next => cases h

/-- Any action of the host keeps the invariant, if a snapshot it restores holds a bounded gain. -/
theorem act_inv {a : HostAct} {s t : State} (hs : s.Inv)
    (ha : ∀ snap, a = .restore snap → snap.dec.gainBounded) (h : act s a = .next t) : t.Inv := by
  cases a with
  | command w =>
    cases hw : decode w with
    | ok i => exact exec_inv hs ((command_of_decode_ok hw s).symm.trans h)
    | error r => cases (command_of_decode_error hw s).symm.trans h
  | write hw => exact hostWrite_inv hs h
  | restore snap => exact hostRestore_inv hs (ha snap rfl) h

/-- Actions taken from the port leave fewer snapshots to restore. -/
theorem inv_of_port_cons {s : State} {a : HostAct} {rest : List HostAct} (hport : s.port = a :: rest)
    (hs : s.Inv) : State.Inv { s with port := rest } :=
  { hs with
    snapshots := fun snap hmem => hs.snapshots snap (hport ▸ List.mem_cons_of_mem a hmem) }

/-- Settles O52: by the action at the port, a command staying in its channel's role unless it opens,
closes or begins. -/
theorem stepKeepsInv : Obligations.StepKeepsInv := by
  intro s t hs h
  cases hport : s.port with
  | nil =>
    rw [step_of_port_nil hport] at h
    exact staysInRole_of_next h (.refl s) |>.inv hs
  | cons a rest =>
    rw [step_of_port_cons hport] at h
    refine act_inv (inv_of_port_cons hport hs) (fun snap ha => hs.snapshots snap ?_) h
    rw [hport, ha]
    exact List.mem_cons_self

/-- Settles O53: power-on holds the values of R50, with `FCTL` 0 and nothing at the port. -/
theorem resetHasInv : Obligations.ResetHasInv :=
  inv_fresh BitVec.extractLsb'_zero BitVec.getLsbD_zero BitVec.getLsbD_zero fun _ h => by cases h

end Sys2Proof.Machine

/-! # O59, O60: the host's write and restore -/

namespace Sys2Proof.Machine

-- One proof at a time: proofs elaborated side by side each hold a thread and its stack (as in the tests).
set_option Elab.async false

/-! ## Host writes -/

section
variable {hw : HostWrite} {s : State}

theorem hostWrite_of_not_wellFormed (h : hw.wellFormed = false) :
    hostWrite hw s = .refused .hostWriteMalformed := by
  simp [hostWrite, h]

theorem hostWrite_of_wellFormed (h : hw.wellFormed = true) :
    hostWrite hw s = .next (s.setFrom hw.reg hw.first hw.vals.length
      fun k => BitVec.ofInt hw.reg.width (hw.vals.getD k 0)) := by
  simp [hostWrite, h]

/-- A well-formed write names elements that exist, and its values are of their type (R10, R24). -/
theorem inShape_and_holds_of_wellFormed (h : hw.wellFormed = true) :
    hw.first + hw.vals.length ≤ hw.reg.len ∧ ∀ k < hw.vals.length, hw.reg.holds (hw.vals.getD k 0) = true := by
  simp only [HostWrite.wellFormed, HostWrite.inShape, HostWrite.inType, Bool.and_eq_true,
    decide_eq_true_eq, List.all_eq_true] at h
  obtain ⟨hshape, htype⟩ := h
  refine ⟨hshape, fun k hk => htype _ ?_⟩
  rw [List.getD_eq_getElem _ _ hk]
  exact List.getElem_mem hk
end

/-- An element written with a word holds it. -/
theorem elD_setFrom_of_lt (s : State) {reg : Reg} {first count k : Nat} (hk : k < count)
    (hlen : first + count ≤ reg.len) (f : Nat → BitVec reg.width) :
    ((s.setFrom reg first count f).regs.get reg).elD (first + k) none = some (f k) := by
  rw [State.setFrom, Regs.elD_setFrom, if_pos (by omega), Nat.add_sub_cancel_left]

theorem toNat_ofInt_of_holds {v : Int} (h : Reg.prm.holds v = true) : (BitVec.ofInt 16 v).toNat = v.toNat := by
  obtain ⟨hlo, hhi⟩ : 0 ≤ v ∧ v < 2 ^ 16 := of_decide_eq_true h
  rw [BitVec.toNat_ofInt]
  congr 1
  exact Int.emod_eq_of_lt hlo hhi

theorem toInt_ofInt_of_holds {reg : Reg} {v : Int} (hreg : reg ≠ .prm) (h : reg.holds v = true) :
    (BitVec.ofInt reg.width v).toInt = v := by
  rw [Reg.holds, if_neg hreg, decide_eq_true_eq] at h
  obtain ⟨hlo, hhi⟩ := h
  have hwidth : 0 < reg.width := by cases reg <;> decide
  exact BitVec.toInt_ofInt_eq_self hwidth hlo hhi

/-- What element `first + k` reads as after a well-formed write: its value, in the signedness of R24. -/
theorem reads_of_elD_eq_ofInt {t : State} {reg : Reg} {i : Nat} {v : Int} (hv : reg.holds v = true)
    (h : (t.regs.get reg).elD i none = some (BitVec.ofInt reg.width v)) :
    if reg = .prm then t.prmHolds i v.toNat else t.holds reg i v := by
  obtain ⟨hint, hnat, hdef⟩ := Regs.read_of_some h
  split
  next hreg =>
    subst hreg
    exact ⟨hdef, hnat.trans (toNat_ofInt_of_holds hv)⟩
  next hreg => exact ⟨hdef, hint.trans (toInt_ofInt_of_holds hreg hv)⟩

theorem setFrom_regsKept (s : State) (reg : Reg) (first count : Nat) (f : Nat → BitVec reg.width) :
    regsKept (part reg first count) s (s.setFrom reg first count f) := by
  intro reg' i hout
  by_cases hreg : reg' = reg
  · subst hreg
    rw [State.setFrom, Regs.elD_setFrom, if_neg]
    rintro ⟨-, hlo, hhi⟩
    exact hout ⟨rfl, hlo, hhi⟩
  · rw [State.setFrom, Regs.get_setFrom_of_ne _ hreg]

/-- Settles O59: a well-formed write is a `setFrom`, whose values are read back in the signedness of R24. -/
theorem hostWriteDefines : Obligations.HostWriteDefines := by
  intro s hw rest hport
  rw [step_of_port_cons hport]
  refine ⟨fun hbad => hostWrite_of_not_wellFormed hbad, fun hgood => ?_⟩
  obtain ⟨hlen, hvals⟩ := inShape_and_holds_of_wellFormed hgood
  refine ⟨_, hostWrite_of_wellFormed hgood, rfl, fun k hk => ?_, rfl, rfl, rfl, ⟨rfl, rfl⟩,
    setFrom_regsKept _ _ _ _ _, fun _ _ _ => rfl⟩
  exact reads_of_elD_eq_ofInt (hvals k hk) (elD_setFrom_of_lt _ hk hlen _)

/-! ## Restores -/

theorem hostRestore_of_mismatch {snap : Snapshot} {s : State}
    (h : s.isOpen = false ∨ s.role ≠ snap.role) : hostRestore snap s = .refused .hostRestoreMismatch := by
  refine if_neg ?_
  rintro ⟨hopen, hrole⟩
  rcases h with hclosed | hother
  · simp [hopen] at hclosed
  · exact hother hrole

theorem hostRestore_of_match {snap : Snapshot} {s : State} (hopen : s.isOpen = true)
    (hrole : s.role = snap.role) : hostRestore snap s = .next (s.restored snap) :=
  if_pos ⟨hopen, hrole⟩

/-- With the absent role's part at the values of R50 in both states, the part that is restored is all the
channel state and all the buffers. -/
theorem restored_snapshot {old s : State} (hrole : s.role = old.role) (hold : old.absentParked)
    (hs : s.absentParked) :
    s.restored old.snapshot = { s with enc := old.enc, dec := old.dec, bufs := old.bufs } := by
  unfold State.absentParked at hold hs
  rw [hrole] at hs
  unfold State.restored
  cases hr : old.role
  all_goals rw [hr] at hold hs
  case enc =>
    obtain ⟨odec, ospeech, opfres, oltf, ostf⟩ := hold
    obtain ⟨sdec, sspeech, spfres, sltf, sstf⟩ := hs
    simp only [State.snapshot, hr, Buffers.restore, sdec, sspeech, spfres, sltf, sstf]
    rw [← odec, ← ospeech, ← opfres, ← oltf, ← ostf]
  case dec =>
    obtain ⟨oenc, osig, owsp⟩ := hold
    obtain ⟨senc, ssig, swsp⟩ := hs
    simp only [State.snapshot, hr, Buffers.restore, senc, ssig, swsp]
    rw [← oenc, ← osig, ← owsp]

/-- Settles O60: the role decides whether the snapshot fits, and what it leaves out is parked in both states. -/
theorem restoreReinstates : Obligations.RestoreReinstates := by
  intro old s rest hport
  rw [step_of_port_cons hport]
  refine ⟨fun hmismatch => hostRestore_of_mismatch hmismatch, fun hopen hrole hold hs => ?_⟩
  calc hostRestore old.snapshot { s with port := rest }
      = .next (State.restored { s with port := rest } old.snapshot) := hostRestore_of_match hopen hrole
    _ = _ := congrArg _ (restored_snapshot hrole hold hs)

end Sys2Proof.Machine

/-! # O55: no operation reads `FSTAT`

Every command is built of updates that commute with replacing `FSTAT`; those that set an outcome flag do
so up to what `FSTAT` then holds. The admission checks read `FCTL` and the operand registers alone. -/

namespace Sys2Proof.Machine

-- One proof at a time: proofs elaborated side by side each hold a thread and its stack (as in the tests).
set_option Elab.async false

/-- The state with `FSTAT` replaced. -/
def State.withFstat (s : State) (f : BitVec 16) : State := { s with fstat := f }

/-- `r'` is refused for the same reason as `r`, or leaves the same state but for `FSTAT`. -/
def SameButFstat (r r' : Result) : Prop :=
  (∀ why, r = .refused why → r' = .refused why)
  ∧ ∀ t, r = .next t → ∃ g, r' = .next (t.withFstat g)

/-- An effect leaves the same state but for `FSTAT`, whatever `FSTAT` holds before it. -/
def FstatBlind (effect : State → State) : Prop :=
  ∀ (s : State) (f : BitVec 16), ∃ g, effect (s.withFstat f) = (effect s).withFstat g

/-! ## Outcomes -/

section
variable {s t t' : State} {f : BitVec 16} {body body' : Result}

theorem sameButFstat_refused (why : Refusal) : SameButFstat (.refused why) (.refused why) :=
  ⟨fun _ h => h, fun _ h => by cases h⟩

theorem sameButFstat_next (h : ∃ g, t' = t.withFstat g) : SameButFstat (.next t) (.next t') := by
  obtain ⟨g, rfl⟩ := h
  refine ⟨fun _ h => (by cases h), fun u h => ⟨g, ?_⟩⟩
  cases h
  rfl

theorem sameButFstat_ite {p : Prop} [Decidable p] {a a' : Result} (ha : SameButFstat a a')
    (hb : SameButFstat body body') :
    SameButFstat (if p then a else body) (if p then a' else body') := by
  split
  · exact ha
  · exact hb

/-- The checks of R358 read `FCTL` and the operand registers alone. -/
theorem sameButFstat_checked {roles : RoleSet} {needs : List Need} {inRange : Bool}
    (h : SameButFstat body body') :
    SameButFstat (checked roles needs inRange s body) (checked roles needs inRange (s.withFstat f) body') :=
  sameButFstat_ite (sameButFstat_refused .channelClosed) <|
  sameButFstat_ite (sameButFstat_refused .wrongRole) <|
  sameButFstat_ite (sameButFstat_refused .notInFrame) <|
  sameButFstat_ite (sameButFstat_refused .undefinedOperand) <|
  sameButFstat_ite (sameButFstat_refused .parameterRange) h

theorem sameButFstat_require {ok : Bool} {why : Refusal} (h : SameButFstat body body') :
    SameButFstat (require ok why body) (require ok why body') := by
  cases ok
  · exact sameButFstat_refused why
  · exact h

/-- A command that passes its checks and then has a blind effect. -/
theorem sameButFstat_checked_realised {roles : RoleSet} {needs : List Need} {inRange : Bool} {i : Instr}
    {effect : State → State} (h : FstatBlind effect) :
    SameButFstat (checked roles needs inRange s (.next (realised cfg i s (effect s))))
      (checked roles needs inRange (s.withFstat f)
        (.next (realised cfg i (s.withFstat f) (effect (s.withFstat f))))) := by
  rw [realised_cfg, realised_cfg]
  exact sameButFstat_checked (sameButFstat_next (h s f))
end

/-! ## What an update reads and writes beside `FSTAT`

The proofs are `(rfl)` and not `rfl`, so that `simp` rewrites with the equations by congruence: a proof by
definitional unfolding of a whole effect would have the kernel unfold the 32-bit saturations in it. -/

section
variable (s : State) (f : BitVec 16)

@[simp] theorem withFstat_regs : (s.withFstat f).regs = s.regs := (rfl)
@[simp] theorem withFstat_enc : (s.withFstat f).enc = s.enc := (rfl)
@[simp] theorem withFstat_dec : (s.withFstat f).dec = s.dec := (rfl)
@[simp] theorem withFstat_bufs : (s.withFstat f).bufs = s.bufs := (rfl)
@[simp] theorem withFstat_isOpen : (s.withFstat f).isOpen = s.isOpen := (rfl)
@[simp] theorem withFstat_role : (s.withFstat f).role = s.role := (rfl)
@[simp] theorem withFstat_bfi : (s.withFstat f).bfi = s.bfi := (rfl)
@[simp] theorem withFstat_inFrame : (s.withFstat f).inFrame = s.inFrame := (rfl)

@[simp] theorem setAll_withFstat (reg : Reg) (v : Nat → BitVec reg.width) :
    (s.withFstat f).setAll reg v = (s.setAll reg v).withFstat f := (rfl)

@[simp] theorem setFrom_withFstat (reg : Reg) (first count : Nat) (v : Nat → BitVec reg.width) :
    (s.withFstat f).setFrom reg first count v = (s.setFrom reg first count v).withFstat f := (rfl)

@[simp] theorem setGains_withFstat (p : I16) (g : I32) :
    (s.withFstat f).setGains p g = (s.setGains p g).withFstat f := (rfl)

@[simp] theorem setDecGains_withFstat (c : Config) (p : I16) (g : I32) (u : I16) :
    State.setDecGains c (s.withFstat f) p g u = (State.setDecGains c s p g u).withFstat f := (rfl)

@[simp] theorem pushEncGpe_withFstat (u : I16) :
    (s.withFstat f).pushEncGpe u = (s.pushEncGpe u).withFstat f := (rfl)

@[simp] theorem fillSubframe_withFstat (b : Buf) (sf : Subframe) (v : Buffers → Nat → I16) :
    (s.withFstat f).fillSubframe b sf v = (s.fillSubframe b sf v).withFstat f := (rfl)

@[simp] theorem recordGp_withFstat : (s.withFstat f).recordGp = s.recordGp.withFstat f := by
  simp only [State.recordGp, withFstat_role]
  cases s.role <;> rfl

@[simp] theorem setQlspPrev_withFstat (v : Nat → I16) :
    (s.withFstat f).setQlspPrev v = (s.setQlspPrev v).withFstat f := by
  simp only [State.setQlspPrev, withFstat_role]
  cases s.role <;> rfl

end

/-! ## Effects that set outcome flags -/

section
variable {effect : State → State} {flag : StatFlag} {cond : State → Bool}

/-- A flag raised or not, on a condition that does not depend on `FSTAT`. -/
theorem FstatBlind.raiseFlag (he : ∀ s f, effect (s.withFstat f) = (effect s).withFstat f)
    (hc : ∀ s f, cond (s.withFstat f) = cond s) :
    FstatBlind fun s => (effect s).raiseFlag flag (cond s) := by
  intro s f
  simp only [he, hc]
  cases cond s
  · exact ⟨f, rfl⟩
  · exact ⟨setBit f flag.bit true, rfl⟩

theorem FstatBlind.writeFlag (he : ∀ s f, effect (s.withFstat f) = (effect s).withFstat f)
    (hc : ∀ s f, cond (s.withFstat f) = cond s) :
    FstatBlind fun s => (effect s).writeFlag flag (cond s) := by
  intro s f
  refine ⟨setBit f flag.bit (cond s), ?_⟩
  simp only [he, hc]
  rfl
end

section
variable (c : Config)

theorem lpAcorr_fstatBlind : FstatBlind (lpAcorr c) := .raiseFlag (fun _ _ => rfl) (fun _ _ => rfl)

theorem lpLevWrite_fstatBlind (st : Levinson) : FstatBlind (lpLevWrite c st) :=
  .raiseFlag (by simp) (by simp)

theorem lspRoot_fstatBlind : FstatBlind (lspRoot c) := by
  intro s f
  simp only [lspRoot, withFstat_regs, withFstat_enc, setAll_withFstat]
  generalize ((lspRoots c _).length == 10) = found
  cases found
  · exact ⟨setBit f StatFlag.rootFail.bit true, rfl⟩
  · exact ⟨f, rfl⟩

theorem lsfDecErased_fstatBlind : FstatBlind (lsfDecErased c) :=
  .raiseFlag (fun _ _ => rfl) (fun _ _ => rfl)

theorem lsfDec_fstatBlind : FstatBlind (lsfDec c) := by
  intro s f
  rw [lsfDec, lsfDec, withFstat_bfi]
  split
  · exact lsfDecErased_fstatBlind c s f
  · exact ⟨f, rfl⟩

theorem pitDec_fstatBlind (sf : Subframe) : FstatBlind (pitDec c sf) := by
  cases sf
  · exact .raiseFlag (fun _ _ => rfl) (fun _ _ => rfl)
  · exact .raiseFlag (fun _ _ => rfl) (fun _ _ => rfl)

theorem fcbDec_fstatBlind (sf : Subframe) : FstatBlind (fcbDec c sf) := by
  intro s f
  rw [fcbDec, fcbDec, withFstat_bfi]
  split
  · exact ⟨setBit f StatFlag.conceal.bit true, rfl⟩
  · exact ⟨f, rfl⟩

theorem gainDecErased_fstatBlind : FstatBlind (gainDecErased c) :=
  .raiseFlag (by simp) (fun _ _ => rfl)

theorem gainDec_fstatBlind (sf : Subframe) : FstatBlind (gainDec c sf) := by
  intro s f
  rw [gainDec, gainDec, withFstat_bfi]
  split
  · exact gainDecErased_fstatBlind c s f
  · exact ⟨f, by simp only [gainDecGood, withFstat_regs, setDecGains_withFstat]⟩

theorem pfLt_fstatBlind (sf : Subframe) : FstatBlind (pfLt c sf) :=
  .writeFlag (fun _ _ => rfl) (fun _ _ => rfl)

theorem pfTilt_fstatBlind (sf : Subframe) : FstatBlind (pfTilt c sf) :=
  .writeFlag (fun _ _ => rfl) (fun _ _ => rfl)

end

/-! ## Effects that set none -/

section
variable (c : Config)

theorem excMix_fstatBlind (sf : Subframe) : FstatBlind (excMix c sf) := fun s f =>
  ⟨f, by simp only [excMix, withFstat_regs, fillSubframe_withFstat, recordGp_withFstat]⟩

theorem updFrm_fstatBlind : FstatBlind updFrm := fun s f =>
  ⟨f, by rw [updFrm, withFstat_regs, setQlspPrev_withFstat]; rfl⟩

theorem lspInterp_fstatBlind : FstatBlind lspInterp := fun _ f => ⟨f, rfl⟩

theorem pitCl_fstatBlind (sf : Subframe) : FstatBlind (pitCl c sf) := by
  cases sf
  · exact fun _ f => ⟨f, rfl⟩
  · exact fun _ f => ⟨f, rfl⟩

theorem gainQuant_fstatBlind (sf : Subframe) : FstatBlind (gainQuant c sf) := fun s f =>
  ⟨f, by simp only [gainQuant, withFstat_regs, setGains_withFstat, setFrom_withFstat, pushEncGpe_withFstat]⟩

theorem fltHp_fstatBlind : FstatBlind (fltHp c) := by
  intro s f
  rw [fltHp, fltHp, withFstat_role]
  cases s.role
  · exact ⟨f, rfl⟩
  · exact ⟨f, rfl⟩

theorem lpWin_fstatBlind : FstatBlind (lpWin c) := fun _ f => ⟨f, rfl⟩

theorem lpLag_fstatBlind : FstatBlind (lpLag c) := fun _ f => ⟨f, rfl⟩

theorem lspTolp_fstatBlind (sf : Subframe) : FstatBlind (lspTolp c sf) := fun _ f => ⟨f, rfl⟩

theorem lsfStab_fstatBlind : FstatBlind (lsfStab c) := fun _ f => ⟨f, rfl⟩

theorem lsfCos_fstatBlind : FstatBlind (lsfCos c) := fun _ f => ⟨f, rfl⟩

theorem pitInterp_fstatBlind (sf : Subframe) : FstatBlind (pitInterp c sf) := fun _ f => ⟨f, rfl⟩

theorem pitConv_fstatBlind : FstatBlind (pitConv c) := fun _ f => ⟨f, rfl⟩

theorem fcbSearch_fstatBlind (sf : Subframe) : FstatBlind (fcbSearch c sf) := fun _ f => ⟨f, rfl⟩

theorem setZ_fstatBlind : FstatBlind (setZ c) := fun _ f => ⟨f, rfl⟩

theorem gainPred_fstatBlind : FstatBlind (gainPred c) := fun _ f => ⟨f, rfl⟩

theorem fltSyn_fstatBlind (sf : Subframe) : FstatBlind (fltSyn c sf) := fun _ f => ⟨f, rfl⟩

theorem fltRes_fstatBlind (sf : Subframe) : FstatBlind (fltRes c sf) := fun _ f => ⟨f, rfl⟩

theorem fltWgt_fstatBlind (sf : Subframe) : FstatBlind (fltWgt c sf) := fun _ f => ⟨f, rfl⟩

theorem pfRes_fstatBlind (sf : Subframe) : FstatBlind (pfRes c sf) := fun _ f => ⟨f, rfl⟩

theorem pfSt_fstatBlind (sf : Subframe) : FstatBlind (pfSt c sf) := fun _ f => ⟨f, rfl⟩

theorem pfAgc_fstatBlind (sf : Subframe) : FstatBlind (pfAgc c sf) := fun _ f => ⟨f, rfl⟩

end

/-! ## The commands -/

theorem exec_sameButFstat (i : Instr) (s : State) (f : BitVec 16) :
    SameButFstat (exec i s) (exec i (s.withFstat f)) := by
  cases i with
  | chInit role =>
    exact sameButFstat_ite (sameButFstat_refused .channelOpen)
      (sameButFstat_next ⟨0, rfl⟩)
  | chClose =>
    exact sameButFstat_ite (sameButFstat_refused .channelClosed)
      (sameButFstat_next ⟨s.closed.fstat, rfl⟩)
  | frmBegin bfi pe =>
    exact sameButFstat_ite (sameButFstat_refused .channelClosed) <|
      sameButFstat_ite (sameButFstat_refused .inFrame) <|
      sameButFstat_ite (sameButFstat_refused .parameterRange) <| sameButFstat_next ⟨0, rfl⟩
  | updFrm => exact sameButFstat_checked (sameButFstat_next (updFrm_fstatBlind s f))
  | lpLag => exact sameButFstat_checked (sameButFstat_require (sameButFstat_next (lpLag_fstatBlind cfg s f)))
  | lpLev =>
    refine sameButFstat_checked ?_
    rw [lpLev, lpLev, withFstat_regs]
    split
    · exact sameButFstat_refused _
    · exact sameButFstat_next (lpLevWrite_fstatBlind cfg _ s f)
  | pitDec sf =>
    exact sameButFstat_checked (sameButFstat_require (sameButFstat_require
      (sameButFstat_next (pitDec_fstatBlind cfg sf s f))))
  | pfLt sf =>
    exact sameButFstat_checked (sameButFstat_require (sameButFstat_next (pfLt_fstatBlind cfg sf s f)))
  | excMix sf => exact sameButFstat_checked_realised (excMix_fstatBlind cfg sf)
  | fltHp => exact sameButFstat_checked_realised (fltHp_fstatBlind cfg)
  | lspRoot => exact sameButFstat_checked_realised (lspRoot_fstatBlind cfg)
  | lspInterp => exact sameButFstat_checked_realised lspInterp_fstatBlind
  | lsfDec => exact sameButFstat_checked_realised (lsfDec_fstatBlind cfg)
  | fcbDec sf => exact sameButFstat_checked_realised (fcbDec_fstatBlind cfg sf)
  | gainDec sf => exact sameButFstat_checked_realised (gainDec_fstatBlind cfg sf)
  | lpAcorr => exact sameButFstat_checked_realised (lpAcorr_fstatBlind cfg)
  | pfTilt sf => exact sameButFstat_checked_realised (pfTilt_fstatBlind cfg sf)
  | pitCl sf => exact sameButFstat_checked_realised (pitCl_fstatBlind cfg sf)
  | lpWin => exact sameButFstat_checked_realised (lpWin_fstatBlind cfg)
  | lspTolp sf => exact sameButFstat_checked_realised (lspTolp_fstatBlind cfg sf)
  | lsfStab => exact sameButFstat_checked_realised (lsfStab_fstatBlind cfg)
  | lsfCos => exact sameButFstat_checked_realised (lsfCos_fstatBlind cfg)
  | pitInterp sf => exact sameButFstat_checked_realised (pitInterp_fstatBlind cfg sf)
  | pitConv => exact sameButFstat_checked_realised (pitConv_fstatBlind cfg)
  | fcbSearch sf => exact sameButFstat_checked_realised (fcbSearch_fstatBlind cfg sf)
  | fcbConv => exact sameButFstat_checked_realised (setZ_fstatBlind cfg)
  | gainPred => exact sameButFstat_checked_realised (gainPred_fstatBlind cfg)
  | gainQuant sf => exact sameButFstat_checked_realised (gainQuant_fstatBlind cfg sf)
  | fltSyn sf => exact sameButFstat_checked_realised (fltSyn_fstatBlind cfg sf)
  | fltRes sf => exact sameButFstat_checked_realised (fltRes_fstatBlind cfg sf)
  | fltWgt sf => exact sameButFstat_checked_realised (fltWgt_fstatBlind cfg sf)
  | pfRes sf => exact sameButFstat_checked_realised (pfRes_fstatBlind cfg sf)
  | pfSt sf => exact sameButFstat_checked_realised (pfSt_fstatBlind cfg sf)
  | pfAgc sf => exact sameButFstat_checked_realised (pfAgc_fstatBlind cfg sf)

/-- Settles O55: command by command, each effect being blind to `FSTAT` and no check reading it. -/
theorem fstatNeverRead : Obligations.FstatNeverRead := exec_sameButFstat

end Sys2Proof.Machine

/-! # O1, O2: decoding is exact -/

namespace Sys2Proof

/-- R82, R83: the encoding of an instruction decodes to it. The cases are the rows of the opcode map by
the fields they have. -/
theorem decode_encode (i : Instr) : decode (encode i) = .ok i := by
  cases i with
  | chInit role => cases role <;> rfl
  | frmBegin bfi pe => cases bfi <;> cases pe <;> rfl
  | chClose | updFrm | lpWin | lpAcorr | lpLag | lpLev | lspRoot | lspInterp | lsfStab | lsfCos | lsfDec
  | pitConv | fcbConv | gainPred | fltHp => rfl
  | excMix sf | lspTolp sf | pitCl sf | pitInterp sf | pitDec sf | fcbSearch sf | fcbDec sf | gainQuant sf
  | gainDec sf | fltSyn sf | fltRes sf | fltWgt sf | pfRes sf | pfLt sf | pfTilt sf | pfSt sf | pfAgc sf =>
    cases sf <;> rfl

/-- Settles O1: a row of the opcode map fixes all bits but its fields, and the encoder puts those back. -/
theorem decodeIffEncode : Obligations.DecodeIffEncode := by
  refine fun w i => ⟨eq_encode_of_decode_eq_ok, ?_⟩
  rintro rfl
  exact decode_encode i

/-- Settles O2: nine of the words are encodings; of the two others one has bit 9 set in a row without
`sf`, and one has an `op` that is not assigned. -/
theorem wordsDecode : Obligations.WordsDecode :=
  ⟨decode_encode (.chInit .dec), decode_encode (.frmBegin true true), decode_encode .lpLev,
    decode_encode (.lspTolp .second), decode_encode (.pitDec .second), decode_encode (.fcbSearch .first),
    decode_encode (.gainDec .second), decode_encode .fltHp, decode_encode (.pfAgc .second), rfl, rfl⟩

end Sys2Proof

/-! # O58: the 80-bit frame

A frame is a row of fields, the first one most significant: 15 parameters (R89) or 10 bytes (R90). What
packing and unpacking do is proved once, on numbers, for fields of any widths; both views of the frame are
tied to it by the number they are. -/

namespace Sys2Proof

/-! ## Fields of any widths side by side in a number -/

/-- `n` fields of widths `wd` side by side, field 0 most significant. -/
def joinFields (wd v : Nat → Nat) : Nat → Nat
  | 0 => 0
  | n + 1 => joinFields wd v n * 2 ^ wd n + v n

/-- Field `i` of the number `m`, which is `n` fields of widths `wd`. -/
def fieldOf (wd : Nat → Nat) (n m i : Nat) : Nat := m / 2 ^ (sumN wd n - sumN wd (i + 1)) % 2 ^ wd i

section
variable {wd v : Nat → Nat} {n : Nat}

theorem sumN_mono (wd : Nat → Nat) : Monotone (sumN wd) :=
  monotone_nat_of_le_succ fun _ => Nat.le_add_right _ _

theorem joinFields_lt (hv : ∀ i < n, v i < 2 ^ wd i) : joinFields wd v n < 2 ^ sumN wd n := by
  induction n with
  | zero => exact Nat.one_pos
  | succ n ih =>
    have hlow : v n < 2 ^ wd n := hv n n.lt_succ_self
    have hhigh : joinFields wd v n + 1 ≤ 2 ^ sumN wd n := ih fun i hi => hv i (hi.trans n.lt_succ_self)
    calc joinFields wd v n * 2 ^ wd n + v n < (joinFields wd v n + 1) * 2 ^ wd n := by
          rw [Nat.succ_mul]; exact Nat.add_lt_add_left hlow _
      _ ≤ 2 ^ sumN wd n * 2 ^ wd n := Nat.mul_le_mul_right _ hhigh
      _ = 2 ^ sumN wd (n + 1) := (pow_add 2 _ _).symm

/-- The sum that puts each field at its place, in a string of `total` bits of which the fields are the
first ones. -/
theorem sumN_fields_eq_joinFields {total : Nat} (h : sumN wd n ≤ total) :
    sumN (fun i => v i * 2 ^ (total - sumN wd i - wd i)) n
      = joinFields wd v n * 2 ^ (total - sumN wd n) := by
  induction n with
  | zero => exact (Nat.zero_mul _).symm
  | succ n ih =>
    have hle : sumN wd n + wd n ≤ total := h
    have hplace : total - sumN wd n = wd n + (total - sumN wd n - wd n) := by omega
    calc sumN (fun i => v i * 2 ^ (total - sumN wd i - wd i)) (n + 1)
        = joinFields wd v n * 2 ^ (total - sumN wd n) + v n * 2 ^ (total - sumN wd n - wd n) :=
          congrArg (· + _) (ih (by omega))
      _ = (joinFields wd v n * 2 ^ wd n + v n) * 2 ^ (total - sumN wd n - wd n) := by
          rw [Nat.add_mul, Nat.mul_assoc, ← pow_add, ← hplace]
      _ = joinFields wd v (n + 1) * 2 ^ (total - sumN wd (n + 1)) := by
          rw [Nat.sub_sub]; rfl

theorem joinFields_succ_div (h : v n < 2 ^ wd n) : joinFields wd v (n + 1) / 2 ^ wd n = joinFields wd v n := by
  rw [joinFields, Nat.mul_comm, Nat.mul_add_div (Nat.two_pow_pos _), Nat.div_eq_of_lt h, Nat.add_zero]

theorem joinFields_succ_mod (h : v n < 2 ^ wd n) : joinFields wd v (n + 1) % 2 ^ wd n = v n := by
  rw [joinFields, Nat.mul_add_mod_self_right, Nat.mod_eq_of_lt h]

/-- With the later fields shifted out, the earlier ones are left. -/
theorem joinFields_div (hv : ∀ i < n, v i < 2 ^ wd i) {k : Nat} (hk : k ≤ n) :
    joinFields wd v n / 2 ^ (sumN wd n - sumN wd k) = joinFields wd v k := by
  induction n, hk using Nat.le_induction with
  | base => rw [Nat.sub_self, pow_zero, Nat.div_one]
  | succ n hk ih =>
    have hsplit : sumN wd (n + 1) - sumN wd k = wd n + (sumN wd n - sumN wd k) := by
      rw [sumN, Nat.add_comm, Nat.add_sub_assoc (sumN_mono wd hk)]
    rw [hsplit, pow_add, ← Nat.div_div_eq_div_mul, joinFields_succ_div (hv n n.lt_succ_self),
      ih fun i hi => hv i (hi.trans n.lt_succ_self)]

theorem fieldOf_lt (wd : Nat → Nat) (n m i : Nat) : fieldOf wd n m i < 2 ^ wd i :=
  Nat.mod_lt _ (Nat.two_pow_pos _)

/-- A field is read back. -/
theorem fieldOf_joinFields (hv : ∀ i < n, v i < 2 ^ wd i) {i : Nat} (hi : i < n) :
    fieldOf wd n (joinFields wd v n) i = v i := by
  rw [fieldOf, joinFields_div hv hi, joinFields_succ_mod (hv i hi)]

/-- The first `k` fields of a number, joined, are the number without its other fields. -/
theorem joinFields_fieldOf_of_le {m : Nat} (hm : m < 2 ^ sumN wd n) {k : Nat} (hk : k ≤ n) :
    joinFields wd (fieldOf wd n m) k = m / 2 ^ (sumN wd n - sumN wd k) := by
  induction k with
  | zero => exact (Nat.div_eq_of_lt hm).symm
  | succ k ih =>
    have hle : sumN wd k + wd k ≤ sumN wd n := sumN_mono wd hk
    have hsplit : sumN wd n - sumN wd k = (sumN wd n - sumN wd (k + 1)) + wd k := by
      rw [sumN]; omega
    rw [joinFields, ih (Nat.le_of_succ_le hk), hsplit, pow_add, ← Nat.div_div_eq_div_mul, fieldOf]
    exact Nat.div_add_mod' _ _

/-- A number is its fields joined. -/
theorem joinFields_fieldOf {m : Nat} (hm : m < 2 ^ sumN wd n) :
    joinFields wd (fieldOf wd n m) n = m := by
  rw [joinFields_fieldOf_of_le hm le_rfl, Nat.sub_self, pow_zero, Nat.div_one]

end

/-- Bit `j` of the `w` bits of a word that begin at its bit `a`, all counted from the first. -/
theorem getMsbD_extractLsb'_field {total a w j : Nat} (f : BitVec total) (hj : j < w) (h : a + w ≤ total) :
    (f.extractLsb' (total - a - w) w).getMsbD j = f.getMsbD (a + j) := by
  have hplace : total - a - w + (w - 1 - j) = total - 1 - (a + j) := by omega
  have hlow : w - 1 - j < w := by omega
  have hin : a + j < total := by omega
  simp only [BitVec.getMsbD, BitVec.getLsbD_extractLsb', hplace, hj, hlow, hin, decide_true, Bool.true_and]

end Sys2Proof

namespace Sys2Proof.Machine

/-! ## The frame as fifteen parameters -/

theorem sumN_prmWidth : sumN prmWidth 15 = 80 := rfl

theorem fieldStart_add_width_le : ∀ i < 15, fieldStart i + prmWidth i ≤ 80 := by decide

/-- R89: the first bit position of each parameter, as the rule's table gives it. -/
theorem fieldStart_eq :
    ∀ i < 15, fieldStart i = [0, 1, 8, 13, 18, 26, 27, 40, 44, 47, 51, 56, 69, 73, 76].getD i 0 := by
  decide

theorem toNat_packFrame {prm : Nat → Nat} (h : legalPrm prm) :
    (packFrame prm).toNat = joinFields prmWidth prm 15 := by
  have hsum : sumN (fun i => prm i * 2 ^ fieldLow i) 15 = joinFields prmWidth prm 15 :=
    (sumN_fields_eq_joinFields (total := 80) sumN_prmWidth.le).trans (Nat.mul_one _)
  rw [packFrame, BitVec.toNat_ofNat, hsum]
  exact Nat.mod_eq_of_lt (joinFields_lt h)

theorem unpackField_eq_fieldOf (f : BitVec 80) : unpackField f = fieldOf prmWidth 15 f.toNat := by
  funext i
  rw [unpackField, BitVec.extractLsb'_toNat, Nat.shiftRight_eq_div_pow, fieldLow, Nat.sub_sub]
  rfl

theorem legalPrm_unpackField (f : BitVec 80) : legalPrm (unpackField f) :=
  fun i _ => unpackField_eq_fieldOf f ▸ fieldOf_lt prmWidth 15 f.toNat i

theorem unpackField_packFrame {prm : Nat → Nat} (h : legalPrm prm) {i : Nat} (hi : i < 15) :
    unpackField (packFrame prm) i = prm i := by
  rw [unpackField_eq_fieldOf, toNat_packFrame h, fieldOf_joinFields h hi]

theorem packFrame_unpackField (f : BitVec 80) : packFrame (unpackField f) = f := by
  apply BitVec.eq_of_toNat_eq
  rw [toNat_packFrame (legalPrm_unpackField f), unpackField_eq_fieldOf, joinFields_fieldOf f.isLt]

/-- R89: bit `j` of a parameter, the most significant first, is bit `j` from its first position on. -/
theorem testBit_unpackField (f : BitVec 80) {i j : Nat} (hi : i < 15) (hj : j < prmWidth i) :
    (unpackField f i).testBit (prmWidth i - 1 - j) = f.getMsbD (fieldStart i + j) := by
  rw [← getMsbD_extractLsb'_field f hj (fieldStart_add_width_le i hi), BitVec.getMsbD, decide_eq_true hj,
    Bool.true_and]
  rfl

theorem getMsbD_packFrame {prm : Nat → Nat} (h : legalPrm prm) {i j : Nat} (hi : i < 15)
    (hj : j < prmWidth i) :
    (packFrame prm).getMsbD (fieldStart i + j) = (prm i).testBit (prmWidth i - 1 - j) := by
  rw [← testBit_unpackField _ hi hj, unpackField_packFrame h hi]

/-- R74: where `PRM` is defined and legal, the host packs it. -/
theorem frame_of_legal {rs : Regs} (hdef : ∀ i < 15, rs.definedAt .prm i = true)
    (hlegal : legalPrm (rs.nat .prm)) : rs.frame = some (packFrame (rs.nat .prm)) := by
  refine if_pos (List.all_eq_true.mpr fun i hi => ?_)
  have hi : i < 15 := List.mem_range.mp hi
  rw [hdef i hi, Regs.prmInRange, decide_eq_true (hlegal i hi)]
  rfl

/-! ## The frame as ten bytes -/

theorem sumN_eight (n : Nat) : sumN (fun _ => 8) n = 8 * n := by
  rw [sumN_eq_sum, Finset.sum_const, Finset.card_range, smul_eq_mul, Nat.mul_comm]

theorem toNat_frameOfBytes (b : Nat → BitVec 8) :
    (frameOfBytes b).toNat = joinFields (fun _ => 8) (fun k => (b k).toNat) 10 := by
  have hplace (k : Nat) : 72 - 8 * k = 80 - sumN (fun _ => 8) k - 8 := by rw [sumN_eight]; omega
  have hsum : sumN (fun k => (b k).toNat * 2 ^ (72 - 8 * k)) 10
      = joinFields (fun _ => 8) (fun k => (b k).toNat) 10 := by
    simp only [hplace]
    exact (sumN_fields_eq_joinFields (total := 80) (sumN_eight 10).le).trans (Nat.mul_one _)
  rw [frameOfBytes, BitVec.toNat_ofNat, hsum]
  exact Nat.mod_eq_of_lt (joinFields_lt fun k _ => (b k).isLt)

theorem toNat_frameByte (f : BitVec 80) (k : Nat) :
    (frameByte f k).toNat = fieldOf (fun _ => 8) 10 f.toNat k := by
  have hplace : 72 - 8 * k = 8 * 10 - 8 * (k + 1) := by omega
  rw [frameByte, BitVec.extractLsb'_toNat, Nat.shiftRight_eq_div_pow, fieldOf, sumN_eight, sumN_eight, hplace]

theorem frameByte_frameOfBytes (b : Nat → BitVec 8) {k : Nat} (hk : k < 10) :
    frameByte (frameOfBytes b) k = b k := by
  apply BitVec.eq_of_toNat_eq
  rw [toNat_frameByte, toNat_frameOfBytes, fieldOf_joinFields (fun k _ => (b k).isLt) hk]

theorem frameOfBytes_frameByte (f : BitVec 80) : frameOfBytes (frameByte f) = f := by
  apply BitVec.eq_of_toNat_eq
  simp only [toNat_frameOfBytes, toNat_frameByte]
  exact joinFields_fieldOf f.isLt

/-- R89: the first bit of byte `k` is bit `8k` of the frame. -/
theorem getMsbD_frameByte (f : BitVec 80) {k b : Nat} (hk : k < 10) (hb : b < 8) :
    (frameByte f k).getMsbD b = f.getMsbD (8 * k + b) := by
  have hplace : 72 - 8 * k = 80 - 8 * k - 8 := by omega
  rw [frameByte, hplace, getMsbD_extractLsb'_field f hb (by omega)]

/-- Settles O58: a frame is its fifteen parameters side by side, and its ten bytes side by side. -/
theorem frameRoundTrip : Obligations.FrameRoundTrip := by
  refine ⟨fun prm h i hi j hj => ?packed, fun f k b => getMsbD_frameByte f,
    fun f i hi => ⟨legalPrm_unpackField f i hi, fun j hj => ?unpacked⟩,
    fun prm h i => unpackField_packFrame h, fun f => ⟨packFrame_unpackField f, legalPrm_unpackField f⟩,
    frameOfBytes_frameByte, fun b k => frameByte_frameOfBytes b, fun rs => frame_of_legal⟩
  case packed =>
    rw [← fieldStart_eq i hi]
    exact getMsbD_packFrame h hi hj
  case unpacked =>
    rw [← fieldStart_eq i hi]
    exact testBit_unpackField f hi hj

end Sys2Proof.Machine

/-! # O37: the kernel's power of ten

The integer part of the exponent is exact. On the rest the model differs from the ideal power in two ways:
the series stops after 60 terms (`abs_expSeries_sub_exp_le`), and `ln10` is not quite `log 10`
(`abs_ln10_sub_log_le`). That `ln10` is near `log 10` is read off the same series: at `ln10` it is near 10. -/

namespace Sys2Proof.Machine

theorem cast_expSeries (y : Rat) (n : Nat) :
    ((expSeries y n : Rat) : ℝ) = ∑ m ∈ Finset.range n, (y : ℝ) ^ m / (m.factorial : ℝ) := by
  rw [expSeries, sumN_eq_sum]
  push_cast
  rfl

/-- The remainder of the real exponential series is at most twice the first term left out, if the terms
halve from there on. -/
theorem abs_exp_sub_series_le {y : ℝ} {n : Nat} (h : |y| / (n + 1 : Nat) ≤ 1 / 2) :
    |Real.exp y - ∑ m ∈ Finset.range n, y ^ m / (m.factorial : ℝ)| ≤ |y| ^ n / n.factorial * 2 := by
  have hc := Complex.exp_bound' (x := (y : ℂ)) (n := n) (by rwa [Complex.norm_real, Real.norm_eq_abs])
  rw [Complex.norm_real, Real.norm_eq_abs] at hc
  exact_mod_cast hc

/-- 60 terms of the series, for the arguments `pow10` gives it. -/
theorem abs_expSeries_sub_exp_le {y : Rat} (h0 : 0 ≤ y) (h1 : y ≤ 5 / 2) :
    |((expSeries y 60 : Rat) : ℝ) - Real.exp y| ≤ 1 / 2 ^ 180 := by
  have hy : |(y : ℝ)| ≤ 5 / 2 := by
    rw [abs_of_nonneg (by exact_mod_cast h0)]
    exact (Rat.cast_le.mpr h1).trans_eq (by norm_num)
  have hhalve : |(y : ℝ)| / (60 + 1 : Nat) ≤ 1 / 2 := by
    rw [div_le_iff₀ (by norm_num)]
    exact hy.trans (by norm_num)
  rw [cast_expSeries, abs_sub_comm]
  calc _ ≤ |(y : ℝ)| ^ 60 / (Nat.factorial 60 : Nat) * 2 := abs_exp_sub_series_le hhalve
    _ ≤ (5 / 2) ^ 60 / (Nat.factorial 60 : Nat) * 2 := by gcongr
    _ ≤ 1 / 2 ^ 180 := by norm_num [Nat.factorial]

theorem ln10_nonneg : 0 ≤ ln10 := by norm_num [ln10]

theorem ln10_le : ln10 ≤ 5 / 2 := by norm_num [ln10]

/-- The one numeric fact about the 60 digits of `ln10`. -/
theorem abs_expSeries_ln10_sub_ten_le : |expSeries ln10 60 - 10| ≤ 1 / 2 ^ 180 := by
  decide +kernel

theorem abs_exp_ln10_sub_ten_le : |Real.exp ln10 - 10| ≤ 1 / 2 ^ 179 := by
  have hseries := abs_expSeries_sub_exp_le ln10_nonneg ln10_le
  have hten : |((expSeries ln10 60 : Rat) : ℝ) - 10| ≤ 1 / 2 ^ 180 := by
    have hcast := Rat.cast_le (K := ℝ).mpr abs_expSeries_ln10_sub_ten_le
    push_cast at hcast
    exact hcast
  rw [abs_sub_comm] at hseries
  calc _ ≤ _ := abs_sub_le _ ((expSeries ln10 60 : Rat) : ℝ) _
    _ ≤ 1 / 2 ^ 180 + 1 / 2 ^ 180 := add_le_add hseries hten
    _ = 1 / 2 ^ 179 := by norm_num

/-- Where `exp a` is near 10, `a` is as near `log 10`: the exponential grows at least as fast as its
tangent at 0. -/
theorem abs_sub_log_ten_le {a ε : ℝ} (hε : ε ≤ 1) (h : |Real.exp a - 10| ≤ ε) :
    |a - Real.log 10| ≤ ε := by
  obtain ⟨hlow, hhigh⟩ := abs_le.mp h
  have htangent : 1 + ε ≤ Real.exp ε := by linarith [Real.add_one_le_exp ε]
  have habove : a ≤ ε + Real.log 10 := by
    rw [← Real.exp_le_exp, Real.exp_add, Real.exp_log (by norm_num)]
    linarith
  have hbelow : Real.log 10 ≤ a + ε := by
    rw [← Real.exp_le_exp, Real.exp_add, Real.exp_log (by norm_num)]
    nlinarith [Real.exp_pos a]
  exact abs_le.mpr ⟨by linarith, by linarith⟩

theorem abs_ln10_sub_log_le : |(ln10 : ℝ) - Real.log 10| ≤ 1 / 2 ^ 179 :=
  abs_sub_log_ten_le (by norm_num) abs_exp_ln10_sub_ten_le

/-- A small change of the rate changes an exponential over an interval of length at most 1 relatively by at
most twice as much. -/
theorem abs_exp_mul_sub_exp_mul_le {a b t ε : ℝ} (h0 : 0 ≤ t) (h1 : t ≤ 1) (hε : ε ≤ 1)
    (h : |a - b| ≤ ε) : |Real.exp (t * a) - Real.exp (t * b)| ≤ Real.exp (t * b) * (2 * ε) := by
  have hd : |t * (a - b)| ≤ ε := by
    rw [abs_mul, abs_of_nonneg h0]
    exact (mul_le_of_le_one_left (abs_nonneg _) h1).trans h
  have hsplit : Real.exp (t * a) = Real.exp (t * b) * Real.exp (t * (a - b)) := by
    rw [← Real.exp_add]
    congr 1
    ring
  calc _ = Real.exp (t * b) * |Real.exp (t * (a - b)) - 1| := by
        rw [hsplit, ← mul_sub_one, abs_mul, Real.abs_exp]
    _ ≤ Real.exp (t * b) * (2 * |t * (a - b)|) := by
        gcongr
        exact Real.abs_exp_sub_one_le (hd.trans hε)
    _ ≤ Real.exp (t * b) * (2 * ε) := by gcongr

/-- What the digits of `ln10` cost, relatively, for an exponent in `[0, 1]`. -/
theorem abs_exp_mul_ln10_sub_rpow_le {t : ℝ} (h0 : 0 ≤ t) (h1 : t ≤ 1) :
    |Real.exp (t * ln10) - 10 ^ t| ≤ 10 ^ t * (2 * (1 / 2 ^ 179)) := by
  rw [Real.rpow_def_of_pos (by norm_num), mul_comm (Real.log 10)]
  exact abs_exp_mul_sub_exp_mul_le h0 h1 (by norm_num) abs_ln10_sub_log_le

/-- `pow10` below its integer part. -/
theorem abs_expSeries_mul_ln10_sub_rpow_le {t : Rat} (h0 : 0 ≤ t) (h1 : t ≤ 1) :
    |((expSeries (t * ln10) 60 : Rat) : ℝ) - 10 ^ (t : ℝ)| ≤ 10 ^ (t : ℝ) / 2 ^ 100 := by
  have h0' : (0 : ℝ) ≤ t := by exact_mod_cast h0
  have h1' : (t : ℝ) ≤ 1 := by exact_mod_cast h1
  have hone : (1 : ℝ) ≤ 10 ^ (t : ℝ) := Real.one_le_rpow (by norm_num) h0'
  have hseries := abs_expSeries_sub_exp_le (mul_nonneg h0 ln10_nonneg)
    ((mul_le_of_le_one_left ln10_nonneg h1).trans ln10_le)
  push_cast at hseries
  calc _ ≤ _ := abs_sub_le _ (Real.exp (t * ln10)) _
    _ ≤ 1 / 2 ^ 180 + 10 ^ (t : ℝ) * (2 * (1 / 2 ^ 179)) :=
        add_le_add hseries (abs_exp_mul_ln10_sub_rpow_le h0' h1')
    _ ≤ 10 ^ (t : ℝ) / 2 ^ 100 := by linarith

theorem pow10_eq (x : Rat) : pow10 x = 10 ^ x.floor * expSeries (Int.fract x * ln10) 60 := by
  have hwhole (n : Int) : (if 0 ≤ n then (10 : Rat) ^ n.toNat else 1 / 10 ^ (-n).toNat) = 10 ^ n := by
    split
    case isTrue h => rw [← zpow_natCast, Int.toNat_of_nonneg h]
    case isFalse h => rw [← zpow_natCast, Int.toNat_of_nonneg (by omega), zpow_neg, one_div, inv_inv]
  rw [pow10, hwhole]
  rfl

theorem rpow_ten_eq_floor_fract (x : Rat) :
    (10 : ℝ) ^ (x : ℝ) = 10 ^ x.floor * 10 ^ ((Int.fract x : Rat) : ℝ) := by
  rw [← Real.rpow_intCast, ← Real.rpow_add (by norm_num)]
  congr 1
  exact_mod_cast (Int.floor_add_fract x).symm

/-- Settles O37: the integer part is exact, so the error is that of the series on the rest. -/
theorem powerOfTenClose : Obligations.PowerOfTenClose := by
  intro x
  have hpart := abs_expSeries_mul_ln10_sub_rpow_le (Int.fract_nonneg x) (Int.fract_lt_one x).le
  have hpos : (0 : ℝ) ≤ 10 ^ x.floor := by positivity
  rw [pow10_eq, rpow_ten_eq_floor_fract]
  rw [Rat.cast_mul, Rat.cast_zpow, Rat.cast_ofNat, ← mul_sub, abs_mul, abs_of_nonneg hpos, mul_div_assoc]
  exact mul_le_mul_of_nonneg_left hpart hpos

end Sys2Proof.Machine

/-! # O9 to O14: the LP analysis

The rules for reading a register file after `setAll` and `raiseFlag`, and for the frames they keep, come
first; then the commands in their order. -/

namespace Sys2Proof

/-! ## Tabulated lists -/

theorem tabFrom_succ_last {α : Type} (f : Nat → α) (k n : Nat) :
    tabFrom f k (n + 1) = tabFrom f k n ++ [f (k + n)] := by
  induction n generalizing k with
  | zero => rfl
  | succ n ih => rw [tabFrom, ih (k + 1), tabFrom, List.cons_append, Nat.succ_add_eq_add_succ]

theorem tabFrom_congr {α : Type} {f g : Nat → α} {k l n : Nat} (h : ∀ i < n, f (k + i) = g (l + i)) :
    tabFrom f k n = tabFrom g l n := by
  apply List.ext_getElem?
  intro i
  rw [tabFrom_getElem?, tabFrom_getElem?]
  split
  case isTrue hi => rw [h i hi]
  case isFalse => rfl

end Sys2Proof

namespace Sys2Proof.Machine

-- One proof at a time: proofs elaborated side by side each hold a thread and its stack (as in the tests).
set_option Elab.async false

/-! ## Registers written whole -/

/-- An element of a signed register is a word of the register's width, or undefined and read as 0. -/
theorem Regs.int_bounds (rs : Regs) (reg : Reg) (i : Nat) :
    -2 ^ (reg.width - 1) ≤ rs.int reg i ∧ rs.int reg i < 2 ^ (reg.width - 1) := by
  unfold Regs.int
  split
  case h_1 w _ => exact ⟨w.le_toInt, w.toInt_lt⟩
  case h_2 => exact ⟨neg_nonpos.mpr (by positivity), by positivity⟩

theorem toInt_ofInt32 {v : Int} (hlo : -2147483648 ≤ v) (hhi : v < 2147483648) :
    (BitVec.ofInt 32 v).toInt = v :=
  BitVec.toInt_ofInt_eq_self (by norm_num) (by norm_num; exact hlo) (by norm_num; exact hhi)

section
variable {s t : State} {reg reg' : Reg} {f : Nat → BitVec reg.width} {i : Nat} {v : Int}

theorem State.holds_setAll (s : State) (hi : i < reg.len) (hv : (f i).toInt = v) :
    (s.setAll reg f).holds reg i v := by
  have hsome : ((s.setAll reg f).regs.get reg).elD i none = some (f i) := by
    rw [State.setAll, Regs.elD_setAll, if_pos hi]
  obtain ⟨hint, -, hdef⟩ := Regs.read_of_some hsome
  exact ⟨hdef, hint.trans hv⟩

theorem State.holds_setAll_of_ne (h : reg' ≠ reg) : (s.setAll reg f).holds reg' i v ↔ s.holds reg' i v := by
  have hget : (s.setAll reg f).regs.get reg' = s.regs.get reg' := Regs.get_setAll_of_ne _ h _
  simp only [State.holds, Regs.definedAt, Regs.int, hget]

@[simp] theorem State.holds_raiseFlag {fl : StatFlag} {b : Bool} :
    (s.raiseFlag fl b).holds reg i v ↔ s.holds reg i v := by
  rw [State.holds, State.raiseFlag_regs, State.holds]

/-- From `s` to `t` nothing is written but registers of the list, whole: the frame of a command that
writes no flag. -/
def WritesOnly (l : List Reg) (s t : State) : Prop :=
  controlKept s t ∧ channelKept s t ∧ regsKept (wholly l) s t ∧ bufsKept nowhere s t

theorem WritesOnly.refl (l : List Reg) (s : State) : WritesOnly l s s :=
  ⟨⟨rfl, rfl, rfl, rfl⟩, ⟨rfl, rfl⟩, fun _ _ _ => rfl, fun _ _ _ => rfl⟩

theorem WritesOnly.setAll {l : List Reg} (h : WritesOnly l s t) (hreg : reg ∈ l) :
    WritesOnly l s (t.setAll reg f) := by
  obtain ⟨hcontrol, hchannel, hregs, hbufs⟩ := h
  refine ⟨hcontrol, hchannel, fun reg' i hout => ?_, hbufs⟩
  have hne : reg' ≠ reg := fun heq => hout (heq ▸ hreg)
  rw [State.setAll, Regs.get_setAll_of_ne _ hne]
  exact hregs reg' i hout

/-- The frame of a command that also raises one flag. -/
theorem WritesOnly.raiseFlag {l : List Reg} (h : WritesOnly l s t) (fl : StatFlag) (b : Bool) :
    (t.raiseFlag fl b).flag fl = (s.flag fl || b) ∧ controlKeptBut fl s (t.raiseFlag fl b)
      ∧ channelKept s (t.raiseFlag fl b) ∧ regsKept (wholly l) s (t.raiseFlag fl b)
      ∧ bufsKept nowhere s (t.raiseFlag fl b) := by
  obtain ⟨⟨hfctl, hfstat, hmodel⟩, hchannel, hregs, hbufs⟩ := h
  have hbits (k : Nat) (hk : k ≠ fl.bit) : (t.raiseFlag fl b).fstat.getLsbD k = s.fstat.getLsbD k := by
    rw [State.getLsbD_raiseFlag _ _ _ hk, hfstat]
  refine ⟨by rw [State.flag_raiseFlag_self, State.flag_congr hfstat], ?_⟩
  simp only [controlKeptBut, modelKept, channelKept, regsKept, bufsKept, State.raiseFlag_fctl,
    State.raiseFlag_port, State.raiseFlag_closes, State.raiseFlag_enc, State.raiseFlag_dec,
    State.raiseFlag_regs, State.raiseFlag_bufs]
  exact ⟨⟨hfctl, hmodel, hbits⟩, hchannel, hregs, hbufs⟩

end

/-! ## LP.WIN (R130) -/

theorem exec_lpWin {s : State} (hs : s.ready .e [] = true) : exec .lpWin s = .next (lpWin cfg s) :=
  checked_of_ready hs rfl

theorem toInt_windowed (c : Config) (bs : Buffers) (i : Nat) :
    (windowed c bs i).toInt = narrow16 ((bs.at .sig i * (c.tWin i).toInt : Rat) / 2 ^ c.qWin) := by
  rw [windowed, sat16_toInt, shrR_eq_rnd, rnd_eq_floor, narrow16, Int.cast_mul]

/-- Settles O9: one register is written, with the windowed samples. -/
theorem lpWinWindows : Obligations.LpWinWindows := fun s hs =>
  ⟨lpWin cfg s, exec_lpWin hs, fun i hi => s.holds_setAll hi (toInt_windowed cfg s.bufs i),
    (WritesOnly.refl _ s).setAll (by simp)⟩

/-! ## LP.ACORR (R131, R132)

The rescaling floors the sums, so that a lag-`k` sum near the opposite of the lag-0 sum could come out the
greater of the two in magnitude. It does not: where there is a rescaling, some sample is large, and the
chain from it in steps of `k` down to the buffer's start keeps the two sums far apart (`acorrSum_gap`). -/

/-! ### The count of the shift -/

/-- The count is the least one that brings the value below 2^31. -/
theorem norm64to31_spec (x : Nat) :
    x < 2 ^ (31 + norm64to31 x) ∧ ∀ m < norm64to31 x, 2 ^ (31 + m) ≤ x := by
  unfold norm64to31
  split
  case isTrue h => exact ⟨h, fun m hm => absurd hm (Nat.not_lt_zero m)⟩
  case isFalse h =>
    have hpos : x ≠ 0 := by rintro rfl; simp at h
    have hlog : 31 ≤ Nat.log2 x := (Nat.le_log2 hpos).mpr (not_lt.mp h)
    refine ⟨?_, fun m hm => ?_⟩
    · rw [show 31 + (Nat.log2 x - 30) = Nat.log2 x + 1 by omega]
      exact Nat.lt_log2_self
    · exact (Nat.le_log2 hpos).mp (by omega)

theorem acorrScale_cfg (x : Nat) : acorrScale cfg x = norm64to31 x := by
  have hswitch : cfg.acorrNormUp = false := rfl
  unfold acorrScale
  split
  case isTrue => rfl
  case isFalse h => rw [hswitch, norm64to31, if_pos (not_le.mp h), if_neg Bool.false_ne_true, Nat.cast_zero]

theorem rescale_natCast (x : Int) (n : Nat) : rescale x n = ⌊(x : Rat) / 2 ^ n⌋ := by
  rw [rescale, if_pos (Int.natCast_nonneg n), Int.toNat_natCast, shr_eq_floor]

/-- A value that the shift brings below 2^31 in magnitude fits an int32. -/
theorem floor_div_two_pow_bounds {x : Int} {n : Nat} (h : |x| < 2 ^ (31 + n)) :
    -2147483648 ≤ ⌊(x : Rat) / 2 ^ n⌋ ∧ ⌊(x : Rat) / 2 ^ n⌋ < 2147483648 := by
  obtain ⟨hlo, hhi⟩ := abs_lt.mp h
  have hpow : (2 : Int) ^ (31 + n) = 2147483648 * 2 ^ n := by rw [pow_add]; norm_num
  have hpos : (0 : Int) < 2 ^ n := by positivity
  rw [← shr_eq_floor, shr]
  exact ⟨Int.le_ediv_of_mul_le hpos (by linarith), Int.ediv_lt_of_lt_mul hpos (by linarith)⟩

/-- The floors of a shift keep an order of magnitudes that leaves room for them. -/
theorem abs_floor_div_two_pow_le {x y : Int} {n : Nat} (h : |y| + 2 ^ n ≤ x + 1) :
    |⌊(y : Rat) / 2 ^ n⌋| ≤ ⌊(x : Rat) / 2 ^ n⌋ := by
  have hpos : (0 : Int) < 2 ^ n := by positivity
  have hrem := Int.emod_lt_of_pos x hpos
  have hdiv := Int.mul_ediv_add_emod x (2 ^ n)
  have hneg := neg_abs_le y
  simp only [← shr_eq_floor, shr, abs_le]
  constructor
  · exact Int.le_ediv_of_mul_le hpos (by linarith)
  · exact Int.ediv_le_ediv hpos (by linarith [le_abs_self y])

/-! ### The sums -/

section
variable {w : Nat → Int}

theorem acorrSum_eq_sum (w : Nat → Int) (k : Nat) :
    acorrSum w k = ∑ j ∈ Finset.range (240 - k), w (j + k) * w j := sumN_eq_sum _ _

theorem acorrSum_zero (w : Nat → Int) : acorrSum w 0 = ∑ j ∈ Finset.range 240, w j ^ 2 := by
  simp only [acorrSum_eq_sum, Nat.add_zero, Nat.sub_zero, sq]

theorem acorrSum_zero_nonneg (w : Nat → Int) : 0 ≤ acorrSum w 0 := by
  rw [acorrSum_zero]
  positivity

theorem acorrSum_zero_le {b : Int} (h : ∀ j < 240, |w j| ≤ b) : acorrSum w 0 ≤ 240 * b ^ 2 := by
  have hterm : ∀ j ∈ Finset.range 240, w j ^ 2 ≤ b ^ 2 := fun j hj => by
    rw [← sq_abs]
    exact pow_le_pow_left₀ (abs_nonneg _) (h j (Finset.mem_range.mp hj)) 2
  rw [acorrSum_zero]
  simpa using Finset.sum_le_card_nsmul _ _ _ hterm

/-- Sample `j` with `σ` times the sample `k` before it, where there is one. -/
def lagCombined (w : Nat → Int) (σ : Int) (k j : Nat) : Int := w j + if j < k then 0 else σ * w (j - k)

/-- The squares of the combined samples, summed over the buffer: at most twice the lag-0 sum with `σ` times
the lag-`k` sum. -/
theorem sum_lagCombined_sq_le {σ : Int} (hσ : σ ^ 2 = 1) {k : Nat} (hk : k ≤ 240) :
    ∑ j ∈ Finset.range 240, lagCombined w σ k j ^ 2 ≤ 2 * (acorrSum w 0 + σ * acorrSum w k) := by
  obtain ⟨m, hm⟩ := Nat.exists_eq_add_of_le hk
  have hhead : ∑ j ∈ Finset.range k, lagCombined w σ k j ^ 2 = ∑ j ∈ Finset.range k, w j ^ 2 :=
    Finset.sum_congr rfl fun j hj => by simp [lagCombined, Finset.mem_range.mp hj]
  have htail : ∀ j, lagCombined w σ k (k + j) ^ 2 = w (k + j) ^ 2 + 2 * (σ * (w (j + k) * w j)) + w j ^ 2 :=
    fun j => by
      have hcomb : lagCombined w σ k (k + j) = w (k + j) + σ * w j := by simp [lagCombined]
      rw [hcomb, add_comm j k]
      linear_combination w j ^ 2 * hσ
  have hless : ∑ j ∈ Finset.range m, w j ^ 2 ≤ acorrSum w 0 := by
    rw [acorrSum_zero]
    exact Finset.sum_le_sum_of_subset_of_nonneg (Finset.range_mono (by omega)) fun _ _ _ => sq_nonneg _
  have hzero : acorrSum w 0
      = ∑ j ∈ Finset.range k, w j ^ 2 + ∑ j ∈ Finset.range m, w (k + j) ^ 2 := by
    rw [acorrSum_zero, hm, Finset.sum_range_add]
  have hlag : acorrSum w k = ∑ j ∈ Finset.range m, w (j + k) * w j := by
    rw [acorrSum_eq_sum, hm, Nat.add_sub_cancel_left]
  calc ∑ j ∈ Finset.range 240, lagCombined w σ k j ^ 2
      = acorrSum w 0 + 2 * (σ * acorrSum w k) + ∑ j ∈ Finset.range m, w j ^ 2 := by
        rw [hm, Finset.sum_range_add, hhead, Finset.sum_congr rfl fun j _ => htail j,
          Finset.sum_add_distrib, Finset.sum_add_distrib, ← Finset.mul_sum, ← Finset.mul_sum, ← hlag, hzero]
        ring
    _ ≤ 2 * (acorrSum w 0 + σ * acorrSum w k) := by linarith

/-- A sample is the alternating sum of the combined samples from it down in steps of `k`. -/
theorem abs_le_sum_lagCombined_sq {σ : Int} (hσ : |σ| = 1) {k : Nat} (hk : 1 ≤ k) (m : Nat) :
    |w m| ≤ ∑ j ∈ Finset.range (m + 1), lagCombined w σ k j ^ 2 := by
  induction m using Nat.strong_induction_on with
  | _ m ih =>
    have hsq : |lagCombined w σ k m| ≤ lagCombined w σ k m ^ 2 := by
      rw [← sq_abs]
      exact Int.le_self_sq _
    rw [Finset.sum_range_succ]
    by_cases hmk : m < k
    · have hself : lagCombined w σ k m = w m := by simp [lagCombined, hmk]
      have hrest : 0 ≤ ∑ j ∈ Finset.range m, lagCombined w σ k j ^ 2 := by positivity
      rw [hself] at hsq ⊢
      linarith
    · have hprev : |w (m - k)| ≤ ∑ j ∈ Finset.range m, lagCombined w σ k j ^ 2 :=
        (ih (m - k) (by omega)).trans
          (Finset.sum_le_sum_of_subset_of_nonneg (Finset.range_mono (by omega)) fun _ _ _ => sq_nonneg _)
      have hsplit : w m = lagCombined w σ k m - σ * w (m - k) := by simp [lagCombined, hmk]
      calc |w m| ≤ |lagCombined w σ k m| + |σ * w (m - k)| := by rw [hsplit]; exact abs_sub _ _
        _ = |lagCombined w σ k m| + |w (m - k)| := by rw [abs_mul, hσ, one_mul]
        _ ≤ _ := by linarith

theorem abs_acorrSum_le {k : Nat} (hk : k ≤ 240) : |acorrSum w k| ≤ acorrSum w 0 := by
  have hnonneg (σ : Int) : 0 ≤ ∑ j ∈ Finset.range 240, lagCombined w σ k j ^ 2 := by positivity
  have hplus := (hnonneg 1).trans (sum_lagCombined_sq_le (by norm_num) hk)
  have hminus := (hnonneg (-1)).trans (sum_lagCombined_sq_le (by norm_num) hk)
  exact abs_le.mpr ⟨by linarith, by linarith⟩

theorem abs_le_two_mul_acorrSum {k : Nat} (hk : 1 ≤ k) (hk' : k ≤ 240) {m : Nat} (hm : m < 240) :
    |w m| ≤ 2 * (acorrSum w 0 - |acorrSum w k|) := by
  have hsigned (σ : Int) (hσ : |σ| = 1) : |w m| ≤ 2 * (acorrSum w 0 + σ * acorrSum w k) :=
    calc |w m| ≤ ∑ j ∈ Finset.range (m + 1), lagCombined w σ k j ^ 2 := abs_le_sum_lagCombined_sq hσ hk m
      _ ≤ ∑ j ∈ Finset.range 240, lagCombined w σ k j ^ 2 :=
        Finset.sum_le_sum_of_subset_of_nonneg (Finset.range_mono (by omega)) fun _ _ _ => sq_nonneg _
      _ ≤ _ := sum_lagCombined_sq_le (by rw [← sq_abs, hσ, one_pow]) hk'
  rcases abs_cases (acorrSum w k) with ⟨habs, -⟩ | ⟨habs, -⟩
  · rw [habs]
    linarith [hsigned (-1) (by norm_num)]
  · rw [habs]
    linarith [hsigned 1 (by norm_num)]

/-- Where the lag-0 sum is rescaled at all, some sample is above 2990 in magnitude. -/
theorem acorrSum_gap (hbig : 2 ^ 31 ≤ acorrSum w 0) {k : Nat} (hk : 1 ≤ k) (hk' : k ≤ 240) :
    |acorrSum w k| + 2 ^ 7 ≤ acorrSum w 0 := by
  obtain ⟨m, hm, hlarge⟩ : ∃ m < 240, 2990 < |w m| := by
    by_contra! hsmall
    have := acorrSum_zero_le hsmall
    norm_num at hbig this
    omega
  have := abs_le_two_mul_acorrSum hk hk' hm (w := w)
  omega

/-! ### The floored sums -/

theorem acorrFloored_of_pos (w : Nat → Int) {k : Nat} (hk : 1 ≤ k) : acorrFloored w k = acorrSum w k :=
  if_neg fun h => by omega

theorem acorrFloored_zero (w : Nat → Int) :
    acorrFloored w 0 = if acorrSum w 0 = 0 then 1 else acorrSum w 0 := by
  simp [acorrFloored]

theorem acorrSum_le_acorrFloored (w : Nat → Int) : acorrSum w 0 ≤ acorrFloored w 0 := by
  rw [acorrFloored_zero]
  split <;> omega

theorem one_le_acorrFloored (w : Nat → Int) : 1 ≤ acorrFloored w 0 := by
  have := acorrSum_zero_nonneg w
  rw [acorrFloored_zero]
  split <;> omega

theorem abs_acorrFloored_le {k : Nat} (hk : k ≤ 240) : |acorrFloored w k| ≤ acorrFloored w 0 := by
  rcases Nat.eq_zero_or_pos k with rfl | hpos
  · exact (abs_of_pos (one_le_acorrFloored w)).le
  · rw [acorrFloored_of_pos w hpos]
    exact (abs_acorrSum_le hk).trans (acorrSum_le_acorrFloored w)

/-- 240 squares of int16 are below 2^38, so at most 7 places are shifted out. -/
theorem shift_le_seven {n : Nat} (hw : ∀ j, |w j| ≤ 32768) (hleast : ∀ m < n, 2 ^ (31 + m) ≤ acorrFloored w 0) :
    n ≤ 7 := by
  by_contra! h
  have hbelow := acorrSum_zero_le fun j _ => hw j
  have habove := hleast 7 h
  rw [acorrFloored_zero] at habove
  norm_num at habove hbelow
  split at habove
  case isTrue => omega
  case isFalse => omega

/-- After the least shift the lag-0 value is still at least 1. -/
theorem one_le_floor_acorrFloored {n : Nat} (hleast : ∀ m < n, 2 ^ (31 + m) ≤ acorrFloored w 0) :
    1 ≤ ⌊(acorrFloored w 0 : Rat) / 2 ^ n⌋ := by
  have hpow : 2 ^ n ≤ acorrFloored w 0 := by
    cases n with
    | zero => exact one_le_acorrFloored w
    | succ n => exact (pow_le_pow_right₀ (by norm_num) (by omega)).trans (hleast n (by omega))
  rw [← shr_eq_floor, shr]
  exact Int.le_ediv_of_mul_le (by positivity) (by rwa [one_mul])

/-- The least shift keeps the order of the sums' magnitudes, the floors included. -/
theorem abs_floor_acorrFloored_le {n : Nat} (hw : ∀ j, |w j| ≤ 32768)
    (hleast : ∀ m < n, 2 ^ (31 + m) ≤ acorrFloored w 0) {k : Nat} (hk : 1 ≤ k) (hk' : k ≤ 240) :
    |⌊(acorrFloored w k : Rat) / 2 ^ n⌋| ≤ ⌊(acorrFloored w 0 : Rat) / 2 ^ n⌋ := by
  apply abs_floor_div_two_pow_le
  rcases Nat.eq_zero_or_pos n with rfl | hn
  · simpa using abs_acorrFloored_le hk'
  · have hbig : 2 ^ 31 ≤ acorrSum w 0 := by
      have := hleast 0 hn
      rw [acorrFloored_zero] at this
      split at this
      case isTrue => norm_num at this
      case isFalse => exact this
    have hpow : (2 : Int) ^ n ≤ 2 ^ 7 := pow_le_pow_right₀ (by norm_num) (shift_le_seven hw hleast)
    have hgap := acorrSum_gap hbig hk hk'
    have hfloor := acorrSum_le_acorrFloored w
    rw [acorrFloored_of_pos w hk]
    linarith

end

/-! ### The command -/

theorem exec_lpAcorr {s : State} (hs : s.ready .e [.all .wsig] = true) :
    exec .lpAcorr s = .next (lpAcorr cfg s) := by
  unfold exec execLpAcorr
  rw [checked_of_ready hs rfl, realised_cfg]

theorem abs_wsig_le (s : State) (j : Nat) : |s.regs.int .wsig j| ≤ 32768 := by
  obtain ⟨hlo, hhi⟩ := s.regs.int_bounds .wsig j
  norm_num at hlo hhi
  exact abs_le.mpr ⟨hlo, hhi.le⟩

/-- The words of `R` and `RSCALE`: no value is narrowed. -/
theorem lpAcorr_holds (s : State) : let w := s.regs.int .wsig
    ∃ n : Nat, acorrFloored w 0 < 2 ^ (31 + n) ∧ (∀ m < n, 2 ^ (31 + m) ≤ acorrFloored w 0)
      ∧ (lpAcorr cfg s).holds .rscale 0 n
      ∧ ∀ k ≤ 10, (lpAcorr cfg s).holds .r k ⌊(acorrFloored w k : Rat) / 2 ^ n⌋ := by
  intro w
  obtain ⟨a, ha⟩ := Int.eq_ofNat_of_zero_le ((zero_le_one).trans (one_le_acorrFloored w))
  obtain ⟨hlt, hle⟩ := norm64to31_spec a
  have hbelow : acorrFloored w 0 < 2 ^ (31 + norm64to31 a) := by rw [ha]; exact_mod_cast hlt
  have hleast : ∀ m < norm64to31 a, 2 ^ (31 + m) ≤ acorrFloored w 0 := fun m hm => by
    rw [ha]; exact_mod_cast hle m hm
  have hseven := shift_le_seven (abs_wsig_le s) hleast
  have hscale : acorrScale cfg (acorrFloored w 0).toNat = norm64to31 a := by
    rw [ha, Int.toNat_natCast, acorrScale_cfg]
  refine ⟨norm64to31 a, hbelow, hleast, ?_, fun k hk => ?_⟩
  · refine State.holds_raiseFlag.mpr (State.holds_setAll _ (by decide) ?_)
    rw [hscale]
    exact BitVec.toInt_ofInt_eq_self (by norm_num) (by norm_num) (by norm_num; omega)
  · refine State.holds_raiseFlag.mpr ((State.holds_setAll_of_ne (by decide)).mpr
      (State.holds_setAll _ (Nat.lt_succ_of_le hk) ?_))
    obtain ⟨hlo, hhi⟩ := floor_div_two_pow_bounds
      ((abs_acorrFloored_le (k := k) (by omega)).trans_lt hbelow)
    rw [hscale, rescale_natCast, toInt_ofInt32 hlo hhi]

theorem lpAcorr_frame (s : State) :
    (lpAcorr cfg s).flag .r0Floor = (s.flag .r0Floor || decide (acorrSum (s.regs.int .wsig) 0 = 0))
      ∧ controlKeptBut .r0Floor s (lpAcorr cfg s) ∧ channelKept s (lpAcorr cfg s)
      ∧ regsKept (wholly [.r, .rscale]) s (lpAcorr cfg s) ∧ bufsKept nowhere s (lpAcorr cfg s) := by
  have hwrites {f : Nat → BitVec 32} {g : Nat → BitVec 8} :
      WritesOnly [.r, .rscale] s ((s.setAll .r f).setAll .rscale g) :=
    ((WritesOnly.refl _ s).setAll (by simp)).setAll (by simp)
  simp only [lpAcorr, beq_eq_decide]
  exact hwrites.raiseFlag _ _

/-- Settles O10: the sums are those of `acorrSum`, and the values written those of `lpAcorr_holds`. -/
theorem lpAcorrAutocorrelates : Obligations.LpAcorrAutocorrelates := by
  intro s hs acc acc0
  have hacc : acc = acorrSum (s.regs.int .wsig) := funext fun k => (acorrSum_eq_sum _ k).symm
  have hacc0 : acc0 = acorrFloored (s.regs.int .wsig) 0 := by rw [acorrFloored_zero, ← hacc]
  obtain ⟨n, hbelow, hleast, hrscale, hr⟩ := lpAcorr_holds s
  rw [hacc0, hacc]
  refine ⟨lpAcorr cfg s, exec_lpAcorr hs,
    ⟨n, hbelow, hleast, hrscale, hr 0 (by omega), fun k hk hk' => ?_⟩, ?_⟩
  · rw [← acorrFloored_of_pos _ hk]
    exact hr k hk'
  · exact lpAcorr_frame s

/-- Settles O11: of the shifted sums by `one_le_floor_acorrFloored` and `abs_floor_acorrFloored_le`. -/
theorem acorrLagZeroDominates : Obligations.AcorrLagZeroDominates := by
  intro s t hs ht
  obtain rfl : lpAcorr cfg s = t := by rw [exec_lpAcorr hs] at ht; injection ht
  obtain ⟨n, -, hleast, -, hr⟩ := lpAcorr_holds s
  have hone := one_le_floor_acorrFloored hleast
  have hvalue (k : Nat) (hk : k ≤ 10) := (hr k hk).2
  rw [hvalue 0 (by omega)]
  refine ⟨hone, fun k hk => ?_⟩
  rw [hvalue k hk]
  rcases Nat.eq_zero_or_pos k with rfl | hpos
  · exact (abs_of_pos hone).le
  · exact abs_floor_acorrFloored_le (abs_wsig_le s) hleast hpos (by omega)

/-! ## LP.LAG (R133) -/

theorem exec_lpLag {s : State} (hs : s.ready .e [.all .r] = true) :
    exec .lpLag s = require (lagFits cfg s.regs) .overflow32 (.next (lpLag cfg s)) := by
  unfold exec execLpLag
  rw [checked_of_ready hs rfl, realised_cfg]

theorem lagWindowed_zero (c : Config) (rs : Regs) : lagWindowed c rs 0 = rs.int .r 0 := if_pos rfl

theorem lagWindowed_of_pos (c : Config) (rs : Regs) {k : Nat} (hk : 1 ≤ k) :
    lagWindowed c rs k = ⌊(rs.int .r k * (c.tLagWin k).toInt : Rat) / 2 ^ c.qWin + 1 / 2⌋ := by
  rw [lagWindowed, if_neg (by omega), shrR_eq_rnd, rnd_eq_floor, Int.cast_mul]

/-- Neither factor is greater in magnitude than 2^31 and 2^15, so only the top of the int32 range can be
left, not its bottom. -/
theorem le_lagWindowed (rs : Regs) (k : Nat) : -2147483648 ≤ lagWindowed cfg rs k := by
  obtain ⟨hlo, hhi⟩ := rs.int_bounds .r k
  norm_num at hlo hhi
  rcases Nat.eq_zero_or_pos k with rfl | hpos
  · exact (lagWindowed_zero cfg rs).symm ▸ hlo
  · obtain ⟨htlo, hthi⟩ := toInt_bounds16 (cfg.tLagWin k)
    have hq : cfg.qWin = 15 := rfl
    have hprod : |rs.int .r k * (cfg.tLagWin k).toInt| ≤ 2147483648 * 32768 := by
      rw [abs_mul]
      exact mul_le_mul (abs_le.mpr ⟨hlo, hhi.le⟩) (abs_le.mpr ⟨htlo, by omega⟩) (abs_nonneg _) (by norm_num)
    have hlow := neg_le_of_abs_le hprod
    rw [lagWindowed, if_neg (by omega), shrR, hq, if_neg (by norm_num)]
    omega

theorem lagFits_iff (rs : Regs) :
    lagFits cfg rs = true ↔ ∀ k, 1 ≤ k → k ≤ 10 → lagWindowed cfg rs k ≤ 2147483647 := by
  simp only [lagFits, fits32, List.all_eq_true, List.mem_range, decide_eq_true_eq]
  refine ⟨fun h k _ hk => (h k (by omega)).2, fun h k hk => ⟨le_lagWindowed rs k, ?_⟩⟩
  rcases Nat.eq_zero_or_pos k with rfl | hpos
  · have hhi := (rs.int_bounds .r 0).2
    norm_num at hhi
    rw [lagWindowed_zero]
    omega
  · exact h k hpos (by omega)

/-- Settles O12: every product fits but at the top of the range, which is what `lagFits` asks. -/
theorem lpLagWindows : Obligations.LpLagWindows := by
  intro s hs rl fits
  have hrl (k : Nat) (hk : 1 ≤ k) : lagWindowed cfg s.regs k = rl k := lagWindowed_of_pos cfg s.regs hk
  have hfits : lagFits cfg s.regs = true ↔ fits := by
    rw [lagFits_iff]
    exact forall_congr' fun k => forall_congr' fun hk => by rw [hrl k hk]
  rw [exec_lpLag hs, ← hfits]
  cases hok : lagFits cfg s.regs with
  | false => simp [require]
  | true =>
    have hall := (lagFits_iff s.regs).mp hok
    refine ⟨by simp [require], fun _ => ⟨lpLag cfg s, rfl, ?zero, fun k hk hk' => ?lags,
      (WritesOnly.refl _ s).setAll (by simp)⟩⟩
    case zero =>
      obtain ⟨hlo, hhi⟩ := s.regs.int_bounds .r 0
      norm_num at hlo hhi
      exact s.holds_setAll (by decide) (by rw [lagWindowed_zero, toInt_ofInt32 hlo hhi])
    case lags =>
      rw [← hrl k hk]
      exact s.holds_setAll (Nat.lt_succ_of_le hk')
        (toInt_ofInt32 (le_lagWindowed s.regs k) (Int.lt_add_one_of_le (hall k hk hk')))

/-! ## LP.LEV (R134, R135)

The sequences of R135 up to an order are what the recursion has computed by then (`Levinson.ofSeq`); the
energy never grows, so that the last one rounds into `ERES`. -/

/-! ### The energy -/

namespace Levinson

theorem order_eq_some {rl : Nat → Int} {st st' : Levinson} (h : st.order rl = some st') :
    0 ≤ st'.energy ∧ ∃ k, st'.energy = (1 - k * k) * st.energy := by
  simp only [order] at h
  split at h
  case isTrue => cases h
  case isFalse hneg =>
    injection h with hst
    rw [← hst]
    exact ⟨not_lt.mp hneg, _, rfl⟩

theorem run_succ_eq_some {rl : Nat → Int} {e0 : Rat} {n : Nat} {st : Levinson}
    (h : run rl e0 (n + 1) = some st) : ∃ prev, run rl e0 n = some prev ∧ prev.order rl = some st :=
  Option.bind_eq_some_iff.mp h

theorem run_energy_bounds {rl : Nat → Int} {e0 : Rat} (h0 : 0 ≤ e0) {n : Nat} {st : Levinson}
    (h : run rl e0 n = some st) : 0 ≤ st.energy ∧ st.energy ≤ e0 := by
  induction n generalizing st with
  | zero =>
    injection h with hst
    rw [← hst]
    exact ⟨h0, le_rfl⟩
  | succ n ih =>
    obtain ⟨prev, hprev, horder⟩ := run_succ_eq_some h
    obtain ⟨hprev0, hprev1⟩ := ih hprev
    obtain ⟨hnonneg, k, hk⟩ := order_eq_some horder
    have hdrop : 0 ≤ k * k * prev.energy := mul_nonneg (mul_self_nonneg k) hprev0
    exact ⟨hnonneg, by linarith⟩

end Levinson

/-- R139 (c), before the rounding. -/
theorem levinson_energy_bounds {rl : Nat → Int} {st : Levinson} (h : levinson rl = some st) :
    0 ≤ st.energy ∧ st.energy ≤ (max 1 (rl 0) : Int) := by
  unfold levinson at h
  split at h
  case isTrue => cases h
  case isFalse hneg =>
    have hrl : (0 : Rat) ≤ rl 0 := by exact_mod_cast not_lt.mp hneg
    split at h
    case isTrue =>
      obtain ⟨hlo, hhi⟩ := Levinson.run_energy_bounds zero_le_one h
      exact ⟨hlo, hhi.trans (by exact_mod_cast le_max_left _ _)⟩
    case isFalse =>
      obtain ⟨hlo, hhi⟩ := Levinson.run_energy_bounds hrl h
      exact ⟨hlo, hhi.trans (by exact_mod_cast le_max_right _ _)⟩

theorem rnd_bounds {y : Rat} {b : Int} (h0 : 0 ≤ y) (hb : y ≤ b) : 0 ≤ rnd y ∧ rnd y ≤ b := by
  rw [rnd_eq_floor]
  exact ⟨Int.floor_nonneg.mpr (by linarith), (Int.floor_le_floor (by linarith)).trans_eq (rnd_intCast b)⟩

/-! ### What a completed recursion leaves -/

theorem exec_lpLev {s : State} (hs : s.ready .e [.all .rl] = true) : exec .lpLev s = lpLev cfg s := by
  unfold exec execLpLev
  rw [checked_of_ready hs rfl]

theorem lpLev_of_none {s : State} (h : levinson (s.regs.int .rl) = none) :
    lpLev cfg s = .refused .levinsonEnergy := by
  rw [lpLev, h]

theorem lpLev_of_some {s : State} {st : Levinson} (h : levinson (s.regs.int .rl) = some st) :
    lpLev cfg s = .next (lpLevWrite cfg st s) := by
  rw [lpLev, h]
  rfl

theorem lpLev_eq_next {s t : State} (h : lpLev cfg s = .next t) :
    ∃ st, levinson (s.regs.int .rl) = some st ∧ t = lpLevWrite cfg st s := by
  cases hlev : levinson (s.regs.int .rl) with
  | none => rw [lpLev_of_none hlev] at h; cases h
  | some st =>
    rw [lpLev_of_some hlev] at h
    injection h with ht
    exact ⟨st, rfl, ht.symm⟩

section
variable (s : State) (st : Levinson)

theorem lpLevWrite_holds_rc {i : Nat} (hi : i < 10) :
    (lpLevWrite cfg st s).holds .rc i (narrow32 (st.refl.getD i 0 * 2 ^ cfg.qRc)) :=
  State.holds_raiseFlag.mpr <| (State.holds_setAll_of_ne (by decide)).mpr <|
    (State.holds_setAll_of_ne (by decide)).mpr <| State.holds_setAll _ hi (sat32_toInt _)

theorem lpLevWrite_holds_a {j : Nat} (hj : j < 10) :
    (lpLevWrite cfg st s).holds .a j (narrow16 (st.coef.getD j 0 * 2 ^ cfg.qLp)) :=
  State.holds_raiseFlag.mpr <| (State.holds_setAll_of_ne (by decide)).mpr <|
    State.holds_setAll _ hj (sat16_toInt _)

theorem lpLevWrite_frame :
    (lpLevWrite cfg st s).flag .r0Floor = (s.flag .r0Floor || decide (s.regs.int .rl 0 = 0))
      ∧ controlKeptBut .r0Floor s (lpLevWrite cfg st s) ∧ channelKept s (lpLevWrite cfg st s)
      ∧ regsKept (wholly [.rc, .a, .eres]) s (lpLevWrite cfg st s)
      ∧ bufsKept nowhere s (lpLevWrite cfg st s) := by
  have hwrites {f : Nat → BitVec 32} {g : Nat → BitVec 16} {h : Nat → BitVec 32} :
      WritesOnly [.rc, .a, .eres] s (((s.setAll .rc f).setAll .a g).setAll .eres h) :=
    (((WritesOnly.refl _ s).setAll (by simp)).setAll (by simp)).setAll (by simp)
  simp only [lpLevWrite, beq_eq_decide]
  exact hwrites.raiseFlag _ _

variable {s st}

/-- The last energy fits `ERES`, being at most 1 or `RL[0]`. -/
theorem lpLevWrite_holds_eres (h : levinson (s.regs.int .rl) = some st) :
    (lpLevWrite cfg st s).holds .eres 0 (rnd st.energy) := by
  obtain ⟨hnonneg, hle⟩ := levinson_energy_bounds h
  obtain ⟨hlo, hhi⟩ := rnd_bounds hnonneg hle
  have hrl := (s.regs.int_bounds .rl 0).2
  norm_num at hrl
  exact State.holds_raiseFlag.mpr (State.holds_setAll _ (by decide)
    (toInt_ofInt32 (by linarith) (hhi.trans_lt (max_lt (by norm_num) hrl))))

end

/-- Settles O14: the bounds of `levinson_energy_bounds` are integers, so the rounding keeps them. -/
theorem levResidualBounded : Obligations.LevResidualBounded := by
  intro s t hs ht
  rw [exec_lpLev hs] at ht
  obtain ⟨st, hst, rfl⟩ := lpLev_eq_next ht
  obtain ⟨hnonneg, hle⟩ := levinson_energy_bounds hst
  obtain ⟨-, heres⟩ := lpLevWrite_holds_eres hst
  rw [heres]
  exact rnd_bounds hnonneg hle

/-! ### The recursion on given sequences -/

/-- The equations of R135 for `k_i`, `E_i`, `a^(i)_j`, of orders 1 to 10. -/
def LevEquations (rl : Nat → Int) (k E : Nat → Rat) (a : Nat → Nat → Rat) : Prop :=
  ∀ i, 1 ≤ i → i ≤ 10 →
    k i = -((rl i : Rat) + ∑ j ∈ Finset.Ico 1 i, a (i - 1) j * (rl (i - j) : Rat))
        / (if E (i - 1) = 0 then 1 else E (i - 1))
    ∧ a i i = k i ∧ (∀ j, 1 ≤ j → j < i → a i j = a (i - 1) j + k i * a (i - 1) (i - j))
    ∧ E i = (1 - k i * k i) * E (i - 1)

namespace Levinson

/-- The sequences up to order `n`. -/
def ofSeq (k E : Nat → Rat) (a : Nat → Nat → Rat) (n : Nat) : Levinson :=
  { coef := tabFrom (a n) 1 n, refl := tabFrom k 1 n, energy := E n }

section
variable {rl : Nat → Int} {k E : Nat → Rat} {a : Nat → Nat → Rat} {n : Nat}

theorem ofSeq_coef_getD {j : Nat} (hj : j < n) : (ofSeq k E a n).coef.getD j 0 = a n (1 + j) := by
  rw [ofSeq, tabFrom_getD, if_pos hj]

theorem ofSeq_refl_getD {j : Nat} (hj : j < n) : (ofSeq k E a n).refl.getD j 0 = k (1 + j) := by
  rw [ofSeq, tabFrom_getD, if_pos hj]

theorem ofSeq_coef_length : (ofSeq k E a n).coef.length = n := tabFrom_length _ _ _

theorem reflection_ofSeq (h : LevEquations rl k E a) (hn : n < 10) :
    (ofSeq k E a n).reflection rl = k (n + 1) := by
  obtain ⟨hk, -⟩ := h (n + 1) (by omega) (by omega)
  have hpast : sumN (fun j => (ofSeq k E a n).coef.getD j 0 * (rl (n - j) : Rat)) n
      = ∑ j ∈ Finset.Ico 1 (n + 1), a n j * (rl (n + 1 - j) : Rat) := by
    rw [sumN_eq_sum, Finset.sum_Ico_eq_sum_range, Nat.add_sub_cancel]
    refine Finset.sum_congr rfl fun j hj => ?_
    rw [ofSeq_coef_getD (Finset.mem_range.mp hj), show n + 1 - (1 + j) = n - j by omega]
  rw [reflection, ofSeq_coef_length, Nat.add_sub_cancel, hpast, hk, floorDen]
  rfl

theorem coef_ofSeq_succ (h : LevEquations rl k E a) (hn : n < 10) :
    tabFrom (fun j => (ofSeq k E a n).coef.getD j 0 + k (n + 1) * (ofSeq k E a n).coef.getD (n - 1 - j) 0) 0 n
      ++ [k (n + 1)] = (ofSeq k E a (n + 1)).coef := by
  obtain ⟨-, hlast, hmid, -⟩ := h (n + 1) (by omega) (by omega)
  have hinit (j : Nat) (hj : j < n) :
      (ofSeq k E a n).coef.getD (0 + j) 0 + k (n + 1) * (ofSeq k E a n).coef.getD (n - 1 - (0 + j)) 0
        = a (n + 1) (1 + j) := by
    rw [ofSeq_coef_getD (by omega), ofSeq_coef_getD (by omega), hmid (1 + j) (by omega) (by omega),
      Nat.add_sub_cancel, Nat.zero_add, show n + 1 - (1 + j) = 1 + (n - 1 - j) by omega]
  rw [tabFrom_congr hinit, ofSeq, tabFrom_succ_last, Nat.add_comm 1 n, hlast]

/-- One order of the recursion is one order of the sequences. -/
theorem order_ofSeq (h : LevEquations rl k E a) (hn : n < 10) :
    (ofSeq k E a n).order rl = if E (n + 1) < 0 then none else some (ofSeq k E a (n + 1)) := by
  obtain ⟨-, -, -, henergy⟩ := h (n + 1) (by omega) (by omega)
  have hrefl : (ofSeq k E a n).refl ++ [k (n + 1)] = (ofSeq k E a (n + 1)).refl := by
    simp only [ofSeq, tabFrom_succ_last, Nat.add_comm 1 n]
  have henergy' : (1 - k (n + 1) * k (n + 1)) * (ofSeq k E a n).energy = E (n + 1) := henergy.symm
  simp only [order, reflection_ofSeq h hn, ofSeq_coef_length, Nat.add_sub_cancel,
    Nat.add_sub_add_right n 1 1, henergy', hrefl, coef_ofSeq_succ h hn]
  rfl

theorem run_of_nonneg (h : LevEquations rl k E a) (hn : n ≤ 10) (hE : ∀ i, 1 ≤ i → i ≤ n → 0 ≤ E i) :
    run rl (E 0) n = some (ofSeq k E a n) := by
  induction n with
  | zero => rfl
  | succ n ih =>
    rw [run, ih (by omega) fun i hi hin => hE i hi (by omega), Option.bind_some, order_ofSeq h hn,
      if_neg (not_lt.mpr (hE (n + 1) (by omega) le_rfl))]

theorem run_of_neg (h : LevEquations rl k E a) (hn : n ≤ 10) (hE : ∃ i, 1 ≤ i ∧ i ≤ n ∧ E i < 0) :
    run rl (E 0) n = none := by
  induction n with
  | zero => obtain ⟨i, hi, hi0, -⟩ := hE; omega
  | succ n ih =>
    rw [run]
    by_cases hprev : ∃ i, 1 ≤ i ∧ i ≤ n ∧ E i < 0
    · rw [ih (by omega) hprev, Option.bind_none]
    · push Not at hprev
      obtain ⟨i, hi, hin, hneg⟩ := hE
      obtain rfl : i = n + 1 := by
        by_contra hne
        exact absurd hneg (not_lt.mpr (hprev i hi (by omega)))
      rw [run_of_nonneg h (by omega) hprev, Option.bind_some, order_ofSeq h hn, if_pos hneg]

end
end Levinson

theorem levinson_of_nonneg {rl : Nat → Int} (h : 0 ≤ rl 0) {e0 : Rat}
    (he0 : e0 = if (rl 0 : Rat) = 0 then 1 else (rl 0 : Rat)) : levinson rl = Levinson.run rl e0 10 := by
  rw [levinson, if_neg (not_lt.mpr h), he0]
  simp only [Int.cast_eq_zero]

theorem levinson_of_neg {rl : Nat → Int} (h : rl 0 < 0) : levinson rl = none := if_pos h

/-- Settles O13: the recursion computes the sequences, order by order, until an energy is negative. -/
theorem lpLevRecursion : Obligations.LpLevRecursion := by
  intro s k E a hs rl hE0 heqs
  have hlev : LevEquations (s.regs.int .rl) k E a := heqs
  rw [exec_lpLev hs]
  refine ⟨fun hneg => lpLev_of_none ?refused, fun hrl0 hE => ?completes⟩
  case refused =>
    by_cases hrl0 : s.regs.int .rl 0 < 0
    · exact levinson_of_neg hrl0
    · have hE : ∃ i, 1 ≤ i ∧ i ≤ 10 ∧ E i < 0 :=
        hneg.resolve_left fun h => hrl0 (Int.cast_lt_zero.mp h)
      rw [levinson_of_nonneg (not_lt.mp hrl0) hE0, Levinson.run_of_neg hlev le_rfl hE]
  case completes =>
    have hst : levinson (s.regs.int .rl) = some (.ofSeq k E a 10) := by
      rw [levinson_of_nonneg (Int.cast_nonneg_iff.mp hrl0) hE0, Levinson.run_of_nonneg hlev le_rfl hE]
    have hzero : decide (rl 0 = 0) = decide (s.regs.int .rl 0 = 0) := by simp only [rl, Int.cast_eq_zero]
    refine ⟨_, lpLev_of_some hst, fun i hi hi' => ?rc, fun j hj hj' => ?a, lpLevWrite_holds_eres hst, ?frame⟩
    case rc =>
      have := lpLevWrite_holds_rc s (.ofSeq k E a 10) (i := i - 1) (by omega)
      rwa [Levinson.ofSeq_refl_getD (by omega), Nat.add_sub_cancel' hi] at this
    case a =>
      have := lpLevWrite_holds_a s (.ofSeq k E a 10) (j := j - 1) (by omega)
      rwa [Levinson.ofSeq_coef_getD (by omega), Nat.add_sub_cancel' hj] at this
    case frame =>
      rw [hzero]
      exact lpLevWrite_frame s _

end Sys2Proof.Machine

/-! # O15 to O22: the LSP units

What narrowing writes to a word of 16 bits comes first; then the commands, each with the lemmas about its
formulas. -/

namespace Sys2Proof.Machine

/-! ## Narrowing to a word -/

theorem toInt_ofInt16 {v : Int} (hlo : -32768 ≤ v) (hhi : v ≤ 32767) : (BitVec.ofInt 16 v).toInt = v :=
  BitVec.toInt_ofInt_eq_self (by norm_num) (by norm_num; exact hlo) (by norm_num; omega)

theorem toInt_sat16_rnd (y : Rat) : (sat16 (rnd y)).toInt = narrow16 y := sat16_toInt _

theorem toInt_sat16_shrR (x : Int) (n : Nat) : (sat16 (shrR x n)).toInt = narrow16 ((x : Rat) / 2 ^ n) := by
  rw [shrR_eq_rnd, toInt_sat16_rnd]

theorem narrow16_intCast (x : Int) : narrow16 (x : Rat) = (sat16 x).toInt := by
  rw [← toInt_sat16_rnd, rnd_intCast]

theorem narrow16_bounds (y : Rat) : -32768 ≤ narrow16 y ∧ narrow16 y ≤ 32767 := by
  rw [← toInt_sat16_rnd]
  exact toInt_bounds16 _

theorem Regs.int_bounds16 (rs : Regs) {reg : Reg} (hw : reg.width = 16) (i : Nat) :
    -32768 ≤ rs.int reg i ∧ rs.int reg i ≤ 32767 := by
  obtain ⟨hlo, hhi⟩ := rs.int_bounds reg i
  norm_num [hw] at hlo hhi
  omega

/-! ## LSP.INTERP (R154) -/

theorem exec_lspInterp {s : State} (hs : s.ready .ed [.all .qlsp] = true) :
    exec .lspInterp s = .next (lspInterp s) :=
  checked_of_ready hs rfl

theorem State.qlspPrev_bounds (s : State) (i : Nat) : -32768 ≤ s.qlspPrev i ∧ s.qlspPrev i ≤ 32767 := by
  unfold State.qlspPrev
  split
  case h_1 => exact toInt_bounds16 _
  case h_2 => exact toInt_bounds16 _

/-- The rounded mean of two words is a word. -/
theorem toInt_sat16_mean {a b : Int} (ha : -32768 ≤ a ∧ a ≤ 32767) (hb : -32768 ≤ b ∧ b ≤ 32767) :
    (sat16 (shrR (a + b) 1)).toInt = ⌊((a + b : Int) : Rat) / 2 + 1 / 2⌋ := by
  have hbounds : -32768 ≤ shrR (a + b) 1 ∧ shrR (a + b) 1 ≤ 32767 := by
    simp only [shrR, one_ne_zero, if_false]
    omega
  rw [sat16_toInt, max_eq_right hbounds.1, min_eq_right hbounds.2, shrR_eq_rnd, rnd_eq_floor, pow_one]

/-- Settles O17: one register is written, with means that need no narrowing. -/
theorem lspInterpMean : Obligations.LspInterpMean := by
  intro s hs
  have hqlsp (i : Nat) : -32768 ≤ s.regs.int .qlsp i ∧ s.regs.int .qlsp i ≤ 32767 := s.regs.int_bounds16 rfl i
  exact ⟨lspInterp s, exec_lspInterp hs,
    fun i hi => s.holds_setAll hi (toInt_sat16_mean (s.qlspPrev_bounds i) (hqlsp i)),
    (WritesOnly.refl _ s).setAll (by simp)⟩

/-! ## The Chebyshev recurrence (R152) -/

/-- What the recurrence comes to: the five-term sum with the Chebyshev polynomials written out. -/
theorem chebyshev_eq (f1 f2 f3 f4 f5 x : Rat) :
    chebyshev [1, f1, f2, f3, f4, f5] x
      = (16 * x ^ 5 - 20 * x ^ 3 + 5 * x) + f1 * (8 * x ^ 4 - 8 * x ^ 2 + 1) + f2 * (4 * x ^ 3 - 3 * x)
        + f3 * (2 * x ^ 2 - 1) + f4 * x + f5 / 2 := by
  simp [chebyshev, gen]
  ring

/-- A cosine of a multiple from the two multiples before it. -/
theorem cos_add_two_mul (n w : ℝ) :
    Real.cos ((n + 2) * w) = 2 * Real.cos w * Real.cos ((n + 1) * w) - Real.cos (n * w) := by
  have hnext := Real.cos_add ((n + 1) * w) w
  have hlast := Real.cos_sub ((n + 1) * w) w
  rw [show (n + 1) * w + w = (n + 2) * w by ring] at hnext
  rw [show (n + 1) * w - w = n * w by ring] at hlast
  linear_combination hnext + hlast

/-- Settles O16: the cosines of the multiples are the Chebyshev polynomials of the cosine. -/
theorem chebyshevIsCosineSum : Obligations.ChebyshevIsCosineSum := by
  intro f1 f2 f3 f4 f5 x w hx
  have h2 : Real.cos (2 * w) = 2 * Real.cos w ^ 2 - 1 := Real.cos_two_mul w
  have h3 : Real.cos (3 * w) = 4 * Real.cos w ^ 3 - 3 * Real.cos w := Real.cos_three_mul w
  have h4 := cos_add_two_mul 2 w
  have h5 := cos_add_two_mul 3 w
  norm_num at h4 h5
  rw [chebyshev_eq, h5, h4, h3, h2, ← hx]
  push_cast
  ring

/-! ## LSP.TOLP (R155, R161)

`GetPol` keeps the first half of the coefficients of a polynomial that reads the same in both directions;
each factor it multiplies in does too. -/

open Polynomial in
/-- The factor `1 - 2·x·X + X²` of one cosine. -/
noncomputable def lspFactor (x : Rat) : Rat[X] := 1 - C (2 * x) * X + X ^ 2

section
open Polynomial

theorem natDegree_lspFactor (x : Rat) : (lspFactor x).natDegree = 2 := by
  unfold lspFactor
  compute_degree!

theorem coeff_lspFactor (x : Rat) :
    (lspFactor x).coeff 0 = 1 ∧ (lspFactor x).coeff 1 = -2 * x ∧ (lspFactor x).coeff 2 = 1 := by
  simp [lspFactor, coeff_one, coeff_X, coeff_X_pow]

theorem reverse_lspFactor (x : Rat) : (lspFactor x).reverse = lspFactor x := by
  ext k
  rw [coeff_reverse, natDegree_lspFactor]
  rcases Nat.lt_or_ge 2 k with hk | hk
  · rw [revAt_eq_self_of_lt hk]
  · obtain ⟨hzero, -, htwo⟩ := coeff_lspFactor x
    rw [revAt_le hk]
    interval_cases k
    · exact htwo.trans hzero.symm
    · rfl
    · exact hzero.trans htwo.symm

theorem coeff_mul_lspFactor (p : Rat[X]) (x : Rat) :
    (p * lspFactor x).coeff 0 = p.coeff 0
      ∧ (p * lspFactor x).coeff 1 = p.coeff 1 + -2 * x * p.coeff 0
      ∧ ∀ k, (p * lspFactor x).coeff (k + 2) = p.coeff (k + 2) + -2 * x * p.coeff (k + 1) + p.coeff k := by
  have hsplit : p * lspFactor x = p - C (2 * x) * (p * X) + p * X ^ 2 := by
    unfold lspFactor
    ring
  rw [hsplit]
  refine ⟨by simp, ?_, fun k => ?_⟩
  · rw [coeff_add, coeff_sub, coeff_C_mul, coeff_mul_X, coeff_mul_X_pow', if_neg (by norm_num)]
    ring
  · rw [coeff_add, coeff_sub, coeff_C_mul, coeff_mul_X, coeff_mul_X_pow]
    ring

/-- The list holds the coefficients 0 to `n` of the polynomial, which is of degree `2·n`, starts with 1
and reads the same in both directions. -/
structure HalfOf (n : Nat) (f : List Rat) (p : Rat[X]) : Prop where
  pos : 1 ≤ n
  length : f.length = n + 1
  getD : ∀ k ≤ n, f.getD k 0 = p.coeff k
  coeff_zero : p.coeff 0 = 1
  natDegree : p.natDegree = 2 * n
  reverse : p.reverse = p

theorem HalfOf.coeff_symm {n : Nat} {f : List Rat} {p : Rat[X]} (h : HalfOf n f p) {k : Nat}
    (hk : k ≤ 2 * n) : p.coeff (2 * n - k) = p.coeff k := by
  conv_rhs => rw [← h.reverse, coeff_reverse, h.natDegree, revAt_le hk]

theorem halfOf_lspFactor (x : Rat) : HalfOf 1 [1, -2 * x] (lspFactor x) := by
  obtain ⟨hzero, hone, -⟩ := coeff_lspFactor x
  refine ⟨le_refl 1, rfl, fun k hk => ?_, hzero, natDegree_lspFactor x, reverse_lspFactor x⟩
  interval_cases k
  · exact hzero.symm
  · exact hone.symm

theorem addFactor_getD (f : List Rat) (x : Rat) {k : Nat} (hk : k ≤ f.length) :
    (addFactor f x).getD k 0 =
      if k = 0 then 1
      else if k = 1 then f.getD 1 0 + -2 * x
      else if k < f.length then f.getD k 0 + -2 * x * f.getD (k - 1) 0 + f.getD (k - 2) 0
      else -2 * x * f.getD (f.length - 1) 0 + 2 * f.getD (f.length - 2) 0 := by
  rw [addFactor, tabFrom_getD, if_pos (Nat.lt_succ_of_le hk), Nat.zero_add]

theorem HalfOf.addFactor {n : Nat} {f : List Rat} {p : Rat[X]} (h : HalfOf n f p) (x : Rat) :
    HalfOf (n + 1) (addFactor f x) (p * lspFactor x) where
  pos := Nat.le_add_left 1 n
  length := by rw [Machine.addFactor, tabFrom_length, h.length]
  getD k hk := by
    obtain ⟨hzero, hone, hmore⟩ := coeff_mul_lspFactor p x
    rw [addFactor_getD f x (by rw [h.length]; exact hk), h.length]
    match k with
    | 0 => simp [hzero, h.coeff_zero]
    | 1 => rw [if_neg one_ne_zero, if_pos rfl, hone, h.getD 1 h.pos, h.coeff_zero, mul_one]
    | k + 2 =>
      rw [if_neg (by omega), if_neg (by omega), hmore]
      split
      case isTrue hlt =>
        rw [h.getD _ (by omega), h.getD _ (by omega), h.getD _ (by omega)]
        rfl
      case isFalse hlt =>
        obtain rfl : n = k + 1 := by omega
        have hsymm : p.coeff (k + 2) = p.coeff k := by
          rw [← h.coeff_symm (k := k) (by omega)]
          congr 1
          omega
        rw [h.getD _ (by omega), h.getD _ (by omega), hsymm]
        simp only [Nat.add_sub_cancel, show k + 1 + 1 - 2 = k by omega]
        ring
  coeff_zero := (coeff_mul_lspFactor p x).1.trans h.coeff_zero
  natDegree := by
    have hp : p ≠ 0 := fun hp => by simpa [hp] using h.coeff_zero
    have hx : lspFactor x ≠ 0 := fun hx => by simpa [hx] using natDegree_lspFactor x
    rw [natDegree_mul hp hx, h.natDegree, natDegree_lspFactor]
    ring
  reverse := by rw [reverse_mul_of_domain, h.reverse, reverse_lspFactor]

theorem HalfOf.foldl {n : Nat} {f : List Rat} {p : Rat[X]} (h : HalfOf n f p) (xs : List Rat) :
    HalfOf (n + xs.length) (xs.foldl Machine.addFactor f) (xs.foldl (fun p x => p * lspFactor x) p) := by
  induction xs generalizing n f p with
  | nil => exact h
  | cons x xs ih =>
    rw [List.length_cons, Nat.add_comm xs.length, ← Nat.add_assoc]
    exact ih (h.addFactor x)

theorem halfOf_getPol (x0 x1 x2 x3 x4 : Rat) :
    HalfOf 5 (getPol x0 [x1, x2, x3, x4])
      (lspFactor x0 * lspFactor x1 * lspFactor x2 * lspFactor x3 * lspFactor x4) :=
  (halfOf_lspFactor x0).foldl [x1, x2, x3, x4]

/-- The product polynomial of the odd cosines, by `(1 + X)`, and that of the even ones, by `(1 - X)`. -/
noncomputable def lspRecombined (x : Nat → Rat) : Rat[X] :=
  (1 + X) * (lspFactor (x 1) * lspFactor (x 3) * lspFactor (x 5) * lspFactor (x 7) * lspFactor (x 9))
    + (1 - X) * (lspFactor (x 2) * lspFactor (x 4) * lspFactor (x 6) * lspFactor (x 8) * lspFactor (x 10))

theorem coeff_recombined (p1 p2 : Rat[X]) {i : Nat} (hi : 1 ≤ i) :
    ((1 + X) * p1 + (1 - X) * p2).coeff i
      = p1.coeff i + p1.coeff (i - 1) + (p2.coeff i - p2.coeff (i - 1)) := by
  obtain ⟨k, rfl⟩ := Nat.exists_eq_add_of_le' hi
  rw [add_mul, sub_mul, one_mul, one_mul]
  simp only [coeff_add, coeff_sub, coeff_X_mul, Nat.add_sub_cancel]

/-- The coefficients above the fifth are read from the first half by symmetry. -/
theorem lpOfLsp_eq_coeff (x : Nat → Rat) {i : Nat} (hi : 1 ≤ i) (hi' : i ≤ 10) :
    lpOfLsp x i = (lspRecombined x).coeff i / 2 := by
  have hodd := halfOf_getPol (x 1) (x 3) (x 5) (x 7) (x 9)
  have heven := halfOf_getPol (x 2) (x 4) (x 6) (x 8) (x 10)
  rw [lspRecombined, coeff_recombined _ _ hi]
  simp only [lpOfLsp]
  split
  case isTrue h =>
    rw [hodd.getD _ h, hodd.getD _ (by omega), heven.getD _ h, heven.getD _ (by omega)]
  case isFalse h =>
    rw [hodd.getD _ (by omega), hodd.getD _ (by omega), heven.getD _ (by omega), heven.getD _ (by omega),
      ← hodd.coeff_symm (k := i) (by omega), ← hodd.coeff_symm (k := i - 1) (by omega),
      ← heven.coeff_symm (k := i) (by omega), ← heven.coeff_symm (k := i - 1) (by omega),
      show 2 * 5 - i = 11 - i - 1 by omega, show 2 * 5 - (i - 1) = 11 - i by omega]
    ring

end

theorem exec_lspTolp {s : State} {sf : Subframe} (hs : s.ready .ed [.all (tolpSource sf)] = true) :
    exec (.lspTolp sf) s = .next (lspTolp cfg sf s) :=
  checked_of_ready hs rfl

theorem State.holds_setFrom (s : State) {reg : Reg} {first count k : Nat} {f : Nat → BitVec reg.width} {v : Int}
    (hk : k < count) (hlen : first + count ≤ reg.len) (hv : (f k).toInt = v) :
    (s.setFrom reg first count f).holds reg (first + k) v := by
  obtain ⟨hint, -, hdef⟩ := Regs.read_of_some (elD_setFrom_of_lt s hk hlen f)
  exact ⟨hdef, hint.trans hv⟩

/-- Settles O18: by `lpOfLsp_eq_coeff` on the register's values. -/
theorem lspTolpRecombines : Obligations.LspTolpRecombines := by
  intro s sf src hs x factor p
  have hsrc : src = tolpSource sf := by cases sf <;> rfl
  have hx : x = fun i => val (s.regs.int (tolpSource sf) (i - 1)) cfg.qLsp := by rw [← hsrc]; rfl
  refine ⟨lspTolp cfg sf s, exec_lspTolp (hsrc ▸ hs), fun i hi hi' => ?_, ⟨rfl, rfl, rfl, rfl⟩, ⟨rfl, rfl⟩,
    setFrom_regsKept s _ _ _ _, fun _ _ _ => rfl⟩
  refine s.holds_setFrom (by omega) (by cases sf <;> decide) ?_
  rw [q, toInt_sat16_rnd, Nat.sub_add_cancel hi, ← hx, lpOfLsp_eq_coeff x hi hi']
  rfl

end Sys2Proof.Machine
namespace Sys2Proof

/-! ## Tabulated lists and lists of a known length -/

theorem tabFrom_getElem {α : Type} (f : Nat → α) (k n : Nat) {i : Nat} (h : i < (tabFrom f k n).length) :
    (tabFrom f k n)[i] = f (k + i) := by
  have hi : i < n := by rwa [tabFrom_length] at h
  rw [List.getElem_eq_iff, tabFrom_getElem?, if_pos hi]

theorem tabFrom_getD_self {α : Type} (l : List α) (d : α) : tabFrom (fun i => l.getD i d) 0 l.length = l := by
  apply List.ext_getElem (tabFrom_length _ _ _)
  intro i hi hl
  rw [tabFrom_getElem, Nat.zero_add, List.getD_eq_getElem _ _ hl]

/-- A tabulated list whose neighbours are in order is in order. -/
theorem pairwise_le_tabFrom {f : Nat → Int} {k n : Nat} (h : ∀ i, i + 1 < n → f (k + i) ≤ f (k + i + 1)) :
    (tabFrom f k n).Pairwise (· ≤ ·) := by
  rw [← List.isChain_iff_pairwise, List.isChain_iff_getElem]
  intro i hi
  rw [tabFrom_getElem, tabFrom_getElem]
  exact h i (by rwa [tabFrom_length] at hi)

end Sys2Proof

namespace Sys2Proof.Machine

/-! ## LSF.STAB (R156, R162) -/

/-! ### Its passes, element by element -/

theorem floorFirst_length (lo : Int) (l : List Int) : (floorFirst lo l).length = l.length := by
  cases l <;> rfl

theorem floorFirst_getD {lo : Int} {l : List Int} (h : l ≠ []) (i : Nat) :
    (floorFirst lo l).getD i 0 = if i = 0 then max (l.getD 0 0) lo else l.getD i 0 := by
  cases l with
  | nil => exact absurd rfl h
  | cons x xs => cases i <;> rfl

theorem ceilLast_length (hi : Int) (l : List Int) : (ceilLast hi l).length = l.length := by
  induction l with
  | nil => rfl
  | cons x xs ih =>
    cases xs with
    | nil => rfl
    | cons y ys => exact congrArg Nat.succ ih

theorem ceilLast_getD (hi : Int) (l : List Int) (i : Nat) :
    (ceilLast hi l).getD i 0 = if i + 1 = l.length then min (l.getD i 0) hi else l.getD i 0 := by
  induction l generalizing i with
  | nil => rfl
  | cons x xs ih =>
    cases xs with
    | nil => cases i <;> rfl
    | cons y ys =>
      cases i with
      | zero => simp [ceilLast]
      | succ i => simpa [ceilLast] using ih i

/-- A value of the spacing pass, from the one before it. -/
def spaceNext (gap prev x : Int) : Int := if x - prev < gap then (sat16 (prev + gap)).toInt else x

theorem spaced_getD_zero (gap : Int) (l : List Int) : (spaced gap l).getD 0 0 = l.getD 0 0 := by
  cases l <;> rfl

theorem spaced_getD_succ (gap : Int) (l : List Int) {i : Nat} (h : i + 1 < l.length) :
    (spaced gap l).getD (i + 1) 0 = spaceNext gap ((spaced gap l).getD i 0) (l.getD (i + 1) 0) := by
  induction i generalizing l with
  | zero =>
    match l, h with
    | x :: y :: ys, _ => rfl
  | succ i ih =>
    match l, h with
    | x :: y :: ys, h => exact ih (spaceNext gap x y :: ys) (Nat.lt_of_succ_lt_succ h)

/-! ### What it makes of ten values -/

/-- `w` is what the passes make of ten sorted values `v`, with the bounds and the gap of R8. -/
def Stabilised (v w : Nat → Int) : Prop :=
  w 0 = max 40 (v 0)
    ∧ ∀ i < 9, w (i + 1) =
      (let c : Int := if i = 8 then min 25681 (v 9) else v (i + 1)
       if c - w i < 321 then min 32767 (w i + 321) else c)

theorem stab_cfg (l : List Int) :
    stab cfg l = spaced 321 (ceilLast 25681 (floorFirst 40 (l.insertionSort (· ≤ ·)))) := by
  have hswitch : cfg.stabCeilLast = false := rfl
  simp only [stab, hswitch, Bool.false_eq_true, if_false]
  rfl

/-- No value is below the floor, so only the top of the word can be met in the spacing pass. -/
theorem stabilised_stab {l : List Int} (hl : l.length = 10) :
    Stabilised (fun i => (l.insertionSort (· ≤ ·)).getD i 0) (fun i => (stab cfg l).getD i 0) := by
  set v := l.insertionSort (· ≤ ·) with hv
  have hlen : v.length = 10 := (List.length_insertionSort _ l).trans hl
  have hne : v ≠ [] := by rintro h; simp [h] at hlen
  have hclamped (i : Nat) : (ceilLast 25681 (floorFirst 40 v)).getD i 0
      = if i = 9 then min (v.getD 9 0) 25681 else if i = 0 then max (v.getD 0 0) 40 else v.getD i 0 := by
    rw [ceilLast_getD, floorFirst_length, hlen, floorFirst_getD hne]
    by_cases h : i = 9
    · subst h; rfl
    · rw [if_neg (by omega), if_neg h]
  have hfirst : (stab cfg l).getD 0 0 = max 40 (v.getD 0 0) := by
    rw [stab_cfg, spaced_getD_zero, hclamped, max_comm]
    rfl
  have hnext (i : Nat) (hi : i < 9) : (stab cfg l).getD (i + 1) 0
      = spaceNext 321 ((stab cfg l).getD i 0) (if i = 8 then min 25681 (v.getD 9 0) else v.getD (i + 1) 0) := by
    rw [stab_cfg, spaced_getD_succ _ _ (by rw [ceilLast_length, floorFirst_length, ← hv, hlen]; omega),
      ← hv, hclamped, if_neg (Nat.succ_ne_zero i), min_comm]
    simp only [Nat.reduceEqDiff]
  have hfloor (i : Nat) (hi : i ≤ 9) : 40 ≤ (stab cfg l).getD i 0 := by
    induction i with
    | zero => exact hfirst ▸ le_max_left _ _
    | succ i ih =>
      have := ih (by omega)
      rw [hnext i hi, spaceNext, sat16_toInt]
      split <;> omega
  refine ⟨hfirst, fun i hi => ?_⟩
  have := hfloor i hi.le
  show (stab cfg l).getD (i + 1) 0 = _
  rw [hnext i hi, spaceNext, sat16_toInt, max_eq_right (by omega)]

namespace Stabilised

variable {v w : Nat → Int}

theorem floor (h : Stabilised v w) {i : Nat} (hi : i ≤ 9) : 40 ≤ w i := by
  obtain ⟨hfirst, hnext⟩ := h
  induction i with
  | zero => rw [hfirst]; exact le_max_left _ _
  | succ i ih =>
    have := ih (by omega)
    rw [hnext i hi]
    dsimp only
    split <;> omega

theorem le_word (h : Stabilised v w) (hv : ∀ i < 10, v i ≤ 32767) {i : Nat} (hi : i ≤ 9) : w i ≤ 32767 := by
  obtain ⟨hfirst, hnext⟩ := h
  cases i with
  | zero => rw [hfirst]; exact max_le (by norm_num) (hv 0 (by norm_num))
  | succ i =>
    have hthis := hv (i + 1) (by omega)
    have hlast := hv 9 (by norm_num)
    rw [hnext i hi]
    dsimp only
    split <;> omega

theorem spacing (h : Stabilised v w) {i : Nat} (hi : i < 9) : w i + 321 ≤ w (i + 1) ∨ w (i + 1) = 32767 := by
  rw [h.2 i hi]
  dsimp only
  split <;> omega

theorem ceiling_iff (h : Stabilised v w) : w 9 ≤ 25681 ↔ w 8 + 321 ≤ 25681 := by
  have hlast := h.2 8 (by norm_num)
  simp only [if_true] at hlast
  rw [hlast]
  split <;> omega

/-- Values that are bounded and spaced already are left as they are. -/
theorem eq_of_spaced (h : Stabilised v w) (hfloor : 40 ≤ v 0) (hceil : v 9 ≤ 25681)
    (hgap : ∀ i < 9, v i + 321 ≤ v (i + 1)) {i : Nat} (hi : i ≤ 9) : w i = v i := by
  obtain ⟨hfirst, hnext⟩ := h
  induction i with
  | zero => rw [hfirst, max_eq_right hfloor]
  | succ i ih =>
    have hc : (if i = 8 then min 25681 (v 9) else v (i + 1)) = v (i + 1) := by
      split
      case isTrue h8 => subst h8; exact min_eq_right hceil
      case isFalse => rfl
    have := hgap i hi
    rw [hnext i hi, hc, ih (by omega)]
    exact if_neg (by omega)

end Stabilised

/-- The values of a vector of words, sorted, are words. -/
theorem insertionSort_getD_le {l : List Int} {b : Int} (hl : ∀ x ∈ l, x ≤ b) {i : Nat} (hi : i < l.length) :
    (l.insertionSort (· ≤ ·)).getD i 0 ≤ b := by
  have hi' : i < (l.insertionSort (· ≤ ·)).length := by rwa [List.length_insertionSort]
  rw [List.getD_eq_getElem _ _ hi']
  exact hl _ ((List.mem_insertionSort _).mp (List.getElem_mem hi'))

theorem stab_bounds {f : Nat → Int} (hf : ∀ i < 10, f i ≤ 32767) {i : Nat} (hi : i < 10) :
    40 ≤ (stab cfg (tabFrom f 0 10)).getD i 0 ∧ (stab cfg (tabFrom f 0 10)).getD i 0 ≤ 32767 := by
  have hst := stabilised_stab (tabFrom_length f 0 10)
  have hmem (x : Int) (hx : x ∈ tabFrom f 0 10) : x ≤ 32767 := by
    obtain ⟨j, hj, rfl⟩ := (mem_tabFrom f 0 10 x).mp hx
    exact hf _ (by omega)
  exact ⟨hst.floor (Nat.le_of_lt_succ hi), hst.le_word
    (fun j hj => insertionSort_getD_le hmem (by rwa [tabFrom_length])) (Nat.le_of_lt_succ hi)⟩

/-- The words of a stabilised vector hold its values. -/
theorem toInt_stab {f : Nat → Int} (hf : ∀ i < 10, f i ≤ 32767) {i : Nat} (hi : i < 10) :
    (BitVec.ofInt 16 ((stab cfg (tabFrom f 0 10)).getD i 0)).toInt = (stab cfg (tabFrom f 0 10)).getD i 0 := by
  obtain ⟨hlo, hhi⟩ := stab_bounds hf hi
  exact toInt_ofInt16 (by omega) hhi

theorem exec_lsfStab {s : State} (hs : s.ready .ed [.all .qlsf] = true) :
    exec .lsfStab s = .next (lsfStab cfg s) :=
  checked_of_ready hs rfl

/-- Settles O19: the register is written with the stabilised vector, `Stabilised` by the passes' equations;
a vector already spaced is sorted. -/
theorem lsfStabSpaces : Obligations.LsfStabSpaces := by
  intro s hs
  set f := s.regs.int .qlsf
  set l := tabFrom f 0 10
  have hlen : l.length = 10 := tabFrom_length f 0 10
  have hword (i : Nat) (_ : i < 10) : f i ≤ 32767 := (s.regs.int_bounds16 rfl i).2
  have hst := stabilised_stab hlen
  have hsorted := List.pairwise_insertionSort (· ≤ ·) l
  refine ⟨lsfStab cfg s, fun i => (l.insertionSort (· ≤ ·)).getD i 0, fun i => (stab cfg l).getD i 0,
    exec_lsfStab hs, fun i hi => s.holds_setAll hi (toInt_stab hword hi), ?perm, fun i hi => ?ascending,
    hst.1, hst.2, fun _ _ => rfl, hst.floor (Nat.zero_le 9), fun i hi => hst.spacing hi, hst.ceiling_iff,
    ?fixed, (WritesOnly.refl _ s).setAll (by simp)⟩
  case perm =>
    have hself := tabFrom_getD_self (l.insertionSort (· ≤ ·)) 0
    rw [List.length_insertionSort, hlen] at hself
    exact (List.Perm.of_eq hself).trans (List.perm_insertionSort _ l)
  case ascending =>
    have hlen' : i + 1 < (l.insertionSort (· ≤ ·)).length := by rw [List.length_insertionSort, hlen]; omega
    show (l.insertionSort (· ≤ ·)).getD i 0 ≤ (l.insertionSort (· ≤ ·)).getD (i + 1) 0
    rw [List.getD_eq_getElem _ _ (by omega), List.getD_eq_getElem _ _ hlen']
    exact List.pairwise_iff_getElem.mp hsorted _ _ _ _ (Nat.lt_succ_self i)
  case fixed =>
    rintro ⟨hfloor, hceil, hgap⟩ i hi
    have hself : l.insertionSort (· ≤ ·) = l := by
      refine List.Pairwise.insertionSort_eq (pairwise_le_tabFrom fun j hj => ?_)
      have := hgap j (by omega)
      rw [Nat.zero_add]
      omega
    have hv (j : Nat) (hj : j < 10) : l.getD j 0 = f j := by rw [tabFrom_getD, if_pos hj, Nat.zero_add]
    rw [hself] at hst
    refine (hst.eq_of_spaced ?_ ?_ (fun j hj => ?_) (Nat.le_of_lt_succ hi)).trans (hv i hi)
    · rw [hv 0 (by norm_num)]; exact hfloor
    · rw [hv 9 (by norm_num)]; exact hceil
    · rw [hv j (by omega), hv (j + 1) (by omega)]; exact hgap j hj

end Sys2Proof.Machine
namespace Sys2Proof.Machine

/-! ## LSF.COS (R157)

The terms of the cosine series are the real parts of those of the exponential series on the imaginary
axis, whose remainder Mathlib bounds. -/

theorem cast_cosSeries_succ (x : Rat) (n : Nat) :
    ((cosSeries x (n + 1) : Rat) : ℝ)
      = cosSeries x n + (-1) ^ n * (x : ℝ) ^ (2 * n) / ((2 * n).factorial : ℝ) := by
  simp only [cosSeries, sumN]
  push_cast
  rfl

theorem re_exp_term_even (x : ℝ) (n : Nat) :
    (((x * Complex.I) ^ (2 * n) / ((2 * n).factorial : ℂ) : ℂ)).re
      = (-1) ^ n * x ^ (2 * n) / ((2 * n).factorial : ℝ) := by
  rw [mul_pow, pow_mul Complex.I, Complex.I_sq, mul_comm]
  exact_mod_cast Complex.ofReal_re _

theorem re_exp_term_odd (x : ℝ) (n : Nat) :
    (((x * Complex.I) ^ (2 * n + 1) / ((2 * n + 1).factorial : ℂ) : ℂ)).re = 0 := by
  have himag : (x * Complex.I) ^ (2 * n + 1) / ((2 * n + 1).factorial : ℂ)
      = (((-1) ^ n * x ^ (2 * n + 1) / ((2 * n + 1).factorial : ℝ) : ℝ) : ℂ) * Complex.I := by
    rw [mul_pow, pow_succ Complex.I, pow_mul Complex.I, Complex.I_sq]
    push_cast
    ring
  rw [himag, Complex.re_ofReal_mul, Complex.I_re, mul_zero]

theorem cast_cosSeries (x : Rat) (n : Nat) :
    ((cosSeries x n : Rat) : ℝ)
      = (∑ m ∈ Finset.range (2 * n), ((x : ℝ) * Complex.I) ^ m / (m.factorial : ℂ)).re := by
  induction n with
  | zero => simp [cosSeries, sumN]
  | succ n ih =>
    rw [cast_cosSeries_succ, ih, Nat.mul_succ, Finset.sum_range_succ, Finset.sum_range_succ, Complex.add_re,
      Complex.add_re, re_exp_term_even, re_exp_term_odd, add_zero]

/-- The remainder of the cosine series, if the terms of the exponential series halve from there on. -/
theorem abs_cosSeries_sub_cos_le {x : Rat} {n : Nat} (h : |(x : ℝ)| / (2 * n + 1 : Nat) ≤ 1 / 2) :
    |((cosSeries x n : Rat) : ℝ) - Real.cos x| ≤ |(x : ℝ)| ^ (2 * n) / (2 * n).factorial * 2 := by
  have hnorm : ‖(x : ℝ) * Complex.I‖ = |(x : ℝ)| := by simp
  have hc := Complex.exp_bound' (x := (x : ℝ) * Complex.I) (n := 2 * n) (by rwa [hnorm])
  rw [cast_cosSeries, ← Complex.exp_ofReal_mul_I_re, abs_sub_comm, ← Complex.sub_re]
  exact (Complex.abs_re_le_norm _).trans (hnorm ▸ hc)

/-- The terms kept by `K_COS`, on every argument a word can be. -/
theorem abs_cosSeries_cosTerms_sub_cos_le {x : Rat} (h : |(x : ℝ)| ≤ 4) :
    |((cosSeries x cosTerms : Rat) : ℝ) - Real.cos x| ≤ 1 / 2 ^ 16 := by
  have hhalve : |(x : ℝ)| / (2 * cosTerms + 1 : Nat) ≤ 1 / 2 := by
    rw [div_le_iff₀ (by norm_num [cosTerms])]
    exact h.trans (by norm_num [cosTerms])
  calc _ ≤ |(x : ℝ)| ^ (2 * cosTerms) / (2 * cosTerms).factorial * 2 := abs_cosSeries_sub_cos_le hhalve
    _ ≤ 4 ^ (2 * cosTerms) / (2 * cosTerms).factorial * 2 := by gcongr
    _ ≤ 1 / 2 ^ 16 := by norm_num [cosTerms, Nat.factorial]

/-- Narrowing a value within a half of an ideal one is within one unit of that, saturated: rounding moves
the value by at most a half, and saturation brings no two values further apart. -/
theorem abs_narrow16_sub_min_le {y : Rat} {ideal : ℝ} (hlow : -32768 ≤ ideal)
    (hnear : |(y : ℝ) - ideal| ≤ 1 / 2) : |(narrow16 y : ℝ) - min 32767 ideal| ≤ 1 := by
  have hround : |((⌊y + 1 / 2⌋ : Int) : ℝ) - y| ≤ 1 / 2 := by
    have hle : ((⌊y + 1 / 2⌋ : Int) : Rat) ≤ y + 1 / 2 := Int.floor_le _
    have hlt : y + 1 / 2 < ((⌊y + 1 / 2⌋ : Int) : Rat) + 1 := Int.lt_floor_add_one _
    have habs : |((⌊y + 1 / 2⌋ : Int) : Rat) - y| ≤ 1 / 2 := abs_le.mpr ⟨by linarith, by linarith⟩
    have hcast := (Rat.cast_le (K := ℝ)).mpr habs
    push_cast at hcast
    exact hcast
  have hrounded : |((⌊y + 1 / 2⌋ : Int) : ℝ) - ideal| ≤ 1 :=
    (abs_sub_le _ (y : ℝ) _).trans (by linarith)
  have hsat : (narrow16 y : ℝ) = min 32767 (max (-32768) ((⌊y + 1 / 2⌋ : Int) : ℝ)) := by
    rw [narrow16]
    push_cast
    rfl
  calc |(narrow16 y : ℝ) - min 32767 ideal|
      = |min 32767 (max (-32768) ((⌊y + 1 / 2⌋ : Int) : ℝ)) - min 32767 (max (-32768) ideal)| := by
        rw [hsat, max_eq_right hlow]
    _ ≤ |((⌊y + 1 / 2⌋ : Int) : ℝ) - ideal| := by
        refine (abs_min_sub_min_le_max _ _ _ _).trans (max_le (by simp) ?_)
        exact (abs_max_sub_max_le_max _ _ _ _).trans (max_le (by simp) le_rfl)
    _ ≤ 1 := hrounded

theorem toInt_kCos (w : I16) :
    (cfg.kCos w).toInt = narrow16 (cosSeries (w.toInt / 2 ^ 13) cosTerms * 2 ^ 15) :=
  toInt_sat16_rnd _

theorem abs_kCos_sub_le (w : I16) :
    |((cfg.kCos w).toInt : ℝ) - min 32767 (2 ^ 15 * Real.cos (w.toInt / 2 ^ 13))| ≤ 1 := by
  have hcast : (((w.toInt / 2 ^ 13 : Rat)) : ℝ) = (w.toInt : ℝ) / 2 ^ 13 := by push_cast; rfl
  have harg : |(w.toInt : ℝ) / 2 ^ 13| ≤ 4 := by
    obtain ⟨hlo, hhi⟩ := toInt_bounds16 w
    have hlo' : (-32768 : ℝ) ≤ w.toInt := by exact_mod_cast hlo
    have hhi' : (w.toInt : ℝ) ≤ 32767 := by exact_mod_cast hhi
    rw [abs_le]
    constructor <;> linarith
  have hseries := abs_cosSeries_cosTerms_sub_cos_le (hcast ▸ harg)
  rw [hcast] at hseries
  rw [toInt_kCos]
  apply abs_narrow16_sub_min_le
  · linarith [Real.neg_one_le_cos ((w.toInt : ℝ) / 2 ^ 13)]
  · push_cast
    rw [mul_comm, ← mul_sub, abs_mul, abs_of_pos (by positivity)]
    linarith

theorem exec_lsfCos {s : State} (hs : s.ready .ed [.all .qlsf] = true) :
    exec .lsfCos s = .next (lsfCos cfg s) :=
  checked_of_ready hs rfl

/-- Settles O20: each word written is `K_COS` of a word of the register. -/
theorem lsfCosWithinOneUnit : Obligations.LsfCosWithinOneUnit := by
  intro s hs
  refine ⟨lsfCos cfg s, fun i => (cfg.kCos (BitVec.ofInt 16 (s.regs.int .qlsf i))).toInt, exec_lsfCos hs,
    fun i hi => s.holds_setAll hi rfl, fun i _ => ?_, (WritesOnly.refl _ s).setAll (by simp)⟩
  obtain ⟨hlo, hhi⟩ := s.regs.int_bounds16 (reg := .qlsf) rfl i
  have hunit := abs_kCos_sub_le (BitVec.ofInt 16 (s.regs.int .qlsf i))
  rwa [toInt_ofInt16 hlo hhi] at hunit

/-! ## LSF.DEC (R158 to R160) -/

theorem exec_lsfDec_of_good {s : State} (hs : s.ready .d [needPrm 0 4] = true) (hbfi : s.bfi = false)
    (hprm : ∀ i < 4, s.regs.prmInRange i = true) : exec .lsfDec s = .next (lsfDecGood cfg s) := by
  have hneeds : lsfDecNeeds s = [needPrm 0 4] := by simp [lsfDecNeeds, hbfi]
  have hrange : lsfDecInRange s = true := by simpa [lsfDecInRange, hbfi] using hprm
  have heffect : lsfDec cfg s = lsfDecGood cfg s := by simp [lsfDec, hbfi]
  rw [← heffect]
  exact checked_of_ready (hneeds ▸ hs) hrange

theorem exec_lsfDec_of_erased {s : State} (hs : s.ready .d [] = true) (hbfi : s.bfi = true) :
    exec .lsfDec s = .next (lsfDecErased cfg s) := by
  have hneeds : lsfDecNeeds s = [] := by simp [lsfDecNeeds, hbfi]
  have hrange : lsfDecInRange s = true := by simp [lsfDecInRange, hbfi]
  have heffect : lsfDec cfg s = lsfDecErased cfg s := by simp [lsfDec, hbfi]
  rw [← heffect]
  exact checked_of_ready (hneeds ▸ hs) hrange

theorem maWeight_eq_sum (c : Config) (l0 i : Nat) :
    maWeight c l0 i = 2 ^ 15 - ∑ k ∈ Finset.range 4, (c.tMaPred l0 k i).toInt := by
  rw [maWeight, sumN_eq_sum]

theorem maPast_eq_sum (c : Config) (hist : Vec I16 40) (l0 i : Nat) :
    maPast c hist l0 i
      = ∑ k ∈ Finset.range 4, (c.tMaPred l0 k i).toInt * (hist.elD (10 * k + i) 0).toInt := by
  rw [maPast, sumN_eq_sum]

/-! ### The erased frame (R160) -/

theorem toInt_backCodeword (d : DecState) (i : Nat) :
    (backCodeword cfg d i).toInt
      = narrow16 (((d.lsfLast.elD i 0).toInt * 2 ^ 15 - maPast cfg d.lsfHist d.l0Last.toNat i : Int)
          / floorDen (maWeight cfg d.l0Last.toNat i)) :=
  toInt_sat16_rnd _

theorem floorDen_intCast (d : Int) : floorDen d = ((if d = 0 then 1 else d : Int) : Rat) := by
  simp only [floorDen, Int.cast_eq_zero]
  split <;> simp

/-- The frame of the erased frame's effect: what `setAll` and `raiseFlag` keep, the decoder's state being
replaced between the two. -/
theorem lsfDecErased_frame (s : State) :
    (lsfDecErased cfg s).flag .conceal = true ∧ controlKeptBut .conceal s (lsfDecErased cfg s)
      ∧ regsKept (wholly [.qlsf]) s (lsfDecErased cfg s) ∧ bufsKept nowhere s (lsfDecErased cfg s) := by
  have hwrites := (WritesOnly.refl [.qlsf] s).setAll (reg := .qlsf) (f := fun i => s.dec.lsfLast.elD i 0) (by simp)
  obtain ⟨hflag, hcontrol, -, hregs, hbufs⟩ := hwrites.raiseFlag .conceal true
  rw [Bool.or_true] at hflag
  exact ⟨hflag, hcontrol, hregs, hbufs⟩

/-- Settles O22: the last LSF's words are written again, and the codeword pushed is `backCodeword`. -/
theorem lsfDecErasedFrame : Obligations.LsfDecErasedFrame := by
  intro s hs hbfi p c0
  have hdec : (lsfDecErased cfg s).dec
      = { s.dec with lsfHist := lsfHistPushed s.dec.lsfHist (backCodeword cfg s.dec) } := State.raiseFlag_dec _ _ _
  have henc : (lsfDecErased cfg s).enc = s.enc := State.raiseFlag_enc _ _ _
  obtain ⟨hnew, hold⟩ := elD_lsfHistPushed s.dec.lsfHist (backCodeword cfg s.dec)
  refine ⟨lsfDecErased cfg s, exec_lsfDec_of_erased hs hbfi,
    fun i hi => State.holds_raiseFlag.mpr (s.holds_setAll hi rfl), fun i hi => ?codeword, fun i hi => ?older,
    by rw [hdec], henc, lsfDecErased_frame s⟩
  case codeword =>
    rw [hdec, hnew i hi, toInt_backCodeword, maPast_eq_sum, maWeight_eq_sum, floorDen_intCast]
  case older => rw [hdec, hold i hi]

/-! ### The good frame (R159) -/

theorem lsfCodeword_getD (c : Config) (l1 l2 l3 : Nat) {i : Nat} (hi : i < 10) :
    (lsfCodeword c l1 l2 l3).getD i 0
      = narrow16 ((c.tL1 l1 i).toInt + (if i < 5 then c.tL2 l2 i else c.tL3 l3 i).toInt : Int) := by
  rw [lsfCodeword, tabFrom_getD, if_pos hi, Nat.zero_add, narrow16_intCast]

theorem toInt_sat16_of_narrow16 (y : Rat) : (sat16 (narrow16 y)).toInt = narrow16 y := by
  rw [← toInt_sat16_rnd, sat16_of_toInt]

/-- What a good frame writes: the words of `QLSF` and of the codeword, and the predictor choice. -/
def State.lsfDecoded (s : State) (word cw : Nat → I16) (l0 : Nat) : State :=
  { s.setAll .qlsf word with
    dec := { s.dec with
      lsfHist := lsfHistPushed s.dec.lsfHist cw, lsfLast := Vec.tab word, l0Last := BitVec.ofNat 1 l0 } }

theorem lsfDecGood_cfg (s : State) : let l := s.regs.nat .prm
    let cw := lsfCodeword cfg (l 1) (l 2) (l 3)
    lsfDecGood cfg s = s.lsfDecoded
      (fun i => BitVec.ofInt 16 ((stab cfg (maCombine cfg s.dec.lsfHist (l 0) cw)).getD i 0))
      (fun i => sat16 (cw.getD i 0)) (l 0) := rfl

section
variable (s : State) (word cw : Nat → I16) (l0 : Nat)

theorem State.lsfDecoded_holds {i : Nat} (hi : i < 10) : (s.lsfDecoded word cw l0).holds .qlsf i (word i).toInt :=
  s.holds_setAll hi rfl

theorem State.lsfDecoded_lsfHist :
    (∀ i < 10, (s.lsfDecoded word cw l0).dec.lsfHist.elD i 0 = cw i)
      ∧ ∀ i < 30, (s.lsfDecoded word cw l0).dec.lsfHist.elD (10 + i) 0 = s.dec.lsfHist.elD i 0 :=
  elD_lsfHistPushed _ _

theorem State.lsfDecoded_lsfLast {i : Nat} (hi : i < 10) : let t := s.lsfDecoded word cw l0
    (t.dec.lsfLast.elD i 0).toInt = t.regs.int .qlsf i := by
  obtain ⟨-, hqlsf⟩ := s.lsfDecoded_holds word cw l0 hi
  exact (congrArg BitVec.toInt ((Vec.elD_tab word i 0).trans (if_pos hi))).trans hqlsf.symm

theorem State.lsfDecoded_l0Last (h : l0 < 2) : (s.lsfDecoded word cw l0).dec.l0Last.toNat = l0 :=
  (BitVec.toNat_ofNat _ _).trans (Nat.mod_eq_of_lt h)

theorem State.lsfDecoded_frame : let t := s.lsfDecoded word cw l0
    t.dec = { s.dec with lsfHist := t.dec.lsfHist, lsfLast := t.dec.lsfLast, l0Last := t.dec.l0Last }
      ∧ t.enc = s.enc ∧ controlKept s t ∧ regsKept (wholly [.qlsf]) s t ∧ bufsKept nowhere s t := by
  obtain ⟨hcontrol, -, hregs, hbufs⟩ :=
    (WritesOnly.refl [.qlsf] s).setAll (reg := .qlsf) (f := word) (by simp)
  exact ⟨rfl, rfl, hcontrol, hregs, hbufs⟩

end

/-- Settles O21: the values of `maCombine` are words, so those of the stabilised vector are. -/
theorem lsfDecGoodFrame : Obligations.LsfDecGoodFrame := by
  intro s hs hbfi hprm l cw p w
  have hcw (i : Nat) (hi : i < 10) : (lsfCodeword cfg (l 1) (l 2) (l 3)).getD i 0 = cw i :=
    lsfCodeword_getD cfg _ _ _ hi
  have hcombine : maCombine cfg s.dec.lsfHist (l 0) (lsfCodeword cfg (l 1) (l 2) (l 3)) = tabFrom w 0 10 := by
    refine tabFrom_congr fun i hi => ?_
    rw [Nat.zero_add, toInt_sat16_shrR, maWeight_eq_sum, maPast_eq_sum, hcw i hi]
  have hw (i : Nat) (_ : i < 10) : w i ≤ 32767 := (narrow16_bounds _).2
  have hl0 : l 0 < 2 := of_decide_eq_true (hprm 0 (by norm_num))
  have hexec := exec_lsfDec_of_good hs hbfi hprm
  simp only [lsfDecGood_cfg] at hexec
  rw [hcombine] at hexec
  refine ⟨_, hexec, fun i hi => ?qlsf, fun i hi => ?codeword, (State.lsfDecoded_lsfHist s _ _ _).2,
    fun i hi => s.lsfDecoded_lsfLast _ _ _ hi, s.lsfDecoded_l0Last _ _ _ hl0, s.lsfDecoded_frame _ _ _⟩
  case qlsf =>
    rw [← toInt_stab hw hi]
    exact s.lsfDecoded_holds _ _ _ hi
  case codeword =>
    rw [(State.lsfDecoded_lsfHist s _ _ _).1 i hi, hcw i hi]
    exact toInt_sat16_of_narrow16 _

end Sys2Proof.Machine
namespace Sys2Proof.Machine

/-! ## LSP.ROOT (R150, R151, R153) -/

/-! ### The polynomials (R151) -/

section
variable (a : Nat → Rat)

theorem sumPoly_getD_zero : (sumPoly a).getD 0 0 = 1 := by
  rw [sumPoly, gen_getD _ (by norm_num), if_pos rfl]

theorem sumPoly_getD_succ {i : Nat} (hi : i < 5) :
    (sumPoly a).getD (i + 1) 0 = a (i + 1) + a (10 - i) - (sumPoly a).getD i 0 := by
  rw [sumPoly, gen_getD _ (by omega), if_neg (Nat.succ_ne_zero i), Nat.add_sub_cancel,
    gen_getD_of_lt (n := 6) _ (Nat.lt_succ_self i) (by omega), show 11 - (i + 1) = 10 - i by omega]

theorem diffPoly_getD_zero : (diffPoly a).getD 0 0 = 1 := by
  rw [diffPoly, gen_getD _ (by norm_num), if_pos rfl]

theorem diffPoly_getD_succ {i : Nat} (hi : i < 5) :
    (diffPoly a).getD (i + 1) 0 = a (i + 1) - a (10 - i) + (diffPoly a).getD i 0 := by
  rw [diffPoly, gen_getD _ (by omega), if_neg (Nat.succ_ne_zero i), Nat.add_sub_cancel,
    gen_getD_of_lt (n := 6) _ (Nat.lt_succ_self i) (by omega), show 11 - (i + 1) = 10 - i by omega]

end

/-! ### The search of one root (R153) -/

theorem isNeg_ne_iff (y z : Rat) : isNeg y ≠ isNeg z ↔ ¬(y < 0 ↔ z < 0) := by
  simp only [isNeg, ne_eq, decide_eq_decide]

namespace Bracket

/-- The bracket of an interval under `v`. -/
def on (v : Int → Rat) (b : Int × Int) : Bracket := ⟨b.1, v b.1, b.2, v b.2⟩

/-- The half of an interval that holds the sign change of `v`. -/
def half (v : Int → Rat) (b : Int × Int) : Int × Int :=
  if v b.1 < 0 ↔ v ((b.1 + b.2) / 2) < 0 then ((b.1 + b.2) / 2, b.2) else (b.1, (b.1 + b.2) / 2)

theorem halve_on (v : Int → Rat) (b : Int × Int) : (on v b).halve v = on v (half v b) := by
  simp only [halve, isNeg_ne_iff, half, on]
  by_cases h : v b.1 < 0 ↔ v ((b.1 + b.2) / 2) < 0
  · rw [if_pos h, if_neg (not_not.mpr h)]
  · rw [if_neg h, if_pos h]

theorem toInt_root_on (v : Int → Rat) (b : Int × Int) :
    (on v b).root.toInt = narrow16 ((b.1 : Rat) - v b.1 * ((b.2 : Rat) - b.1) / (v b.2 - v b.1)) :=
  toInt_sat16_rnd _

end Bracket

/-! ### One grid point of the walk -/

/-- The value at `y` of the polynomial that is walked for root `k`. -/
def lspValue (f1 f2 : List Rat) (k : Nat) (y : Int) : Rat :=
  chebyshev (if k % 2 = 0 then f1 else f2) (val y cfg.qLsp)

/-- The polynomials of R151 written out, as functions of the index. -/
theorem chebyshev_eq_lspValue {f1 f2 : List Rat} (h1 : f1.length = 6) (h2 : f2.length = 6) (k : Nat) (y : Int) :
    (let f : Nat → Rat := if k % 2 = 0 then (f1.getD · 0) else (f2.getD · 0)
     chebyshev [f 0, f 1, f 2, f 3, f 4, f 5] ((y : Rat) / 2 ^ cfg.qLsp)) = lspValue f1 f2 k y := by
  have hself1 := tabFrom_getD_self f1 0
  have hself2 := tabFrom_getD_self f2 0
  rw [h1] at hself1
  rw [h2] at hself2
  unfold lspValue
  split
  case isTrue => exact congrArg (chebyshev · _) hself1
  case isFalse => exact congrArg (chebyshev · _) hself2

/-- The root that the sign change between `xa` and `xb` leads to. -/
def crossing (v : Int → Rat) (xa xb : Int) : I16 := (Bracket.on v (Bracket.half v (Bracket.half v (xa, xb)))).root

namespace RootSearch

section
variable (f1 f2 : List Rat)

/-- The polynomial walked is that of the next root, and the value kept is its value. -/
structure OnWalk (st : RootSearch) : Prop where
  onDiff : st.onDiff = decide (st.roots.length % 2 = 1)
  value : st.ya = lspValue f1 f2 st.roots.length st.xa

variable {f1 f2} {st : RootSearch}

theorem eval_eq_lspValue (k : Nat) (y : Int) :
    chebyshev (if decide (k % 2 = 1) then f2 else f1) (val y cfg.qLsp) = lspValue f1 f2 k y := by
  rcases Nat.mod_two_eq_zero_or_one k with h | h <;> simp [lspValue, h]

theorem visit_of_done (h : st.roots.length = 10) (xb : Int) : st.visit cfg f1 f2 xb = st := if_pos h

theorem visit_of_same_sign (h : st.OnWalk f1 f2) (hdone : st.roots.length ≠ 10) {xb : Int}
    (hsign : lspValue f1 f2 st.roots.length st.xa < 0 ↔ lspValue f1 f2 st.roots.length xb < 0) :
    st.visit cfg f1 f2 xb = { st with xa := xb, ya := lspValue f1 f2 st.roots.length xb } := by
  simp only [visit, if_neg hdone, h.onDiff, eval_eq_lspValue, h.value, isNeg_ne_iff, hsign, not_true,
    if_false]

theorem visit_of_crossing (h : st.OnWalk f1 f2) (hdone : st.roots.length ≠ 10) {xb : Int}
    (hsign : ¬(lspValue f1 f2 st.roots.length st.xa < 0 ↔ lspValue f1 f2 st.roots.length xb < 0)) :
    let xr := crossing (lspValue f1 f2 st.roots.length) st.xa xb
    st.visit cfg f1 f2 xb =
      ⟨decide ((st.roots.length + 1) % 2 = 1), xr.toInt, lspValue f1 f2 (st.roots.length + 1) xr.toInt,
        st.roots ++ [xr]⟩ := by
  have hnext : (!decide (st.roots.length % 2 = 1)) = decide ((st.roots.length + 1) % 2 = 1) := by
    rw [← decide_not, decide_eq_decide]
    omega
  have hroot : ((Bracket.halve (lspValue f1 f2 st.roots.length) ⟨st.xa, lspValue f1 f2 st.roots.length st.xa, xb,
      lspValue f1 f2 st.roots.length xb⟩).halve (lspValue f1 f2 st.roots.length)).root
      = crossing (lspValue f1 f2 st.roots.length) st.xa xb := by
    rw [crossing, ← Bracket.halve_on, ← Bracket.halve_on, Bracket.on]
  simp only [visit, if_neg hdone, h.onDiff, hnext, eval_eq_lspValue, h.value, isNeg_ne_iff, hsign,
    not_false_eq_true, if_true, hroot]

theorem OnWalk.visit (h : st.OnWalk f1 f2) (xb : Int) : (st.visit cfg f1 f2 xb).OnWalk f1 f2 := by
  by_cases hdone : st.roots.length = 10
  · rwa [visit_of_done hdone]
  by_cases hsign : lspValue f1 f2 st.roots.length st.xa < 0 ↔ lspValue f1 f2 st.roots.length xb < 0
  · rw [visit_of_same_sign h hdone hsign]
    exact ⟨h.onDiff, rfl⟩
  · rw [visit_of_crossing h hdone hsign]
    constructor <;> simp

theorem roots_prefix_visit (h : st.OnWalk f1 f2) (xb : Int) : st.roots <+: (st.visit cfg f1 f2 xb).roots := by
  by_cases hdone : st.roots.length = 10
  · rw [visit_of_done hdone]
  by_cases hsign : lspValue f1 f2 st.roots.length st.xa < 0 ↔ lspValue f1 f2 st.roots.length xb < 0
  · rw [visit_of_same_sign h hdone hsign]
  · rw [visit_of_crossing h hdone hsign]
    exact List.prefix_append _ _

end

end RootSearch

/-! ### The walk over the grid -/

section
variable (f1 f2 : List Rat)

/-- The search after grid point `j`. -/
def rootWalk : Nat → RootSearch
  | 0 => ⟨false, (cfg.tCosGrid 0).toInt, chebyshev f1 (val (cfg.tCosGrid 0).toInt cfg.qLsp), []⟩
  | j + 1 => (rootWalk j).visit cfg f1 f2 (cfg.tCosGrid (j + 1)).toInt

theorem foldl_visit_eq_rootWalk (j : Nat) :
    (tabFrom (fun j => (cfg.tCosGrid j).toInt) 1 j).foldl (RootSearch.visit cfg f1 f2) (rootWalk f1 f2 0)
      = rootWalk f1 f2 j := by
  induction j with
  | zero => rfl
  | succ j ih => rw [tabFrom_succ_last, List.foldl_append, ih, Nat.add_comm 1 j]; rfl

theorem lspRoots_eq (a : Nat → Rat) : lspRoots cfg a = (rootWalk (sumPoly a) (diffPoly a) 50).roots :=
  congrArg RootSearch.roots (foldl_visit_eq_rootWalk _ _ 50)

theorem rootWalk_onWalk (j : Nat) : (rootWalk f1 f2 j).OnWalk f1 f2 := by
  induction j with
  | zero => exact ⟨rfl, rfl⟩
  | succ j ih => exact ih.visit _

theorem rootWalk_roots_prefix {j m : Nat} (h : j ≤ m) : (rootWalk f1 f2 j).roots <+: (rootWalk f1 f2 m).roots := by
  induction m, h using Nat.le_induction with
  | base => exact List.prefix_refl _
  | succ m _ ih => exact ih.trans (RootSearch.roots_prefix_visit (rootWalk_onWalk f1 f2 m) _)

/-- A root found at some grid point is among the roots at the end, in its place. -/
theorem rootWalk_getD_of_append {j m : Nat} (h : j < m) {xr : I16}
    (hroots : (rootWalk f1 f2 (j + 1)).roots = (rootWalk f1 f2 j).roots ++ [xr]) :
    (rootWalk f1 f2 m).roots.getD (rootWalk f1 f2 j).roots.length 0 = xr := by
  obtain ⟨rest, hrest⟩ := rootWalk_roots_prefix f1 f2 (Nat.succ_le_of_lt h)
  rw [← hrest, hroots]
  simp

/-- What one grid point does, as R153 says it. -/
theorem rootWalk_step {j : Nat} (hj : j < 50) :
    let g := fun i => (cfg.tCosGrid i).toInt
    let x := fun i => (rootWalk f1 f2 i).xa
    let n := fun i => (rootWalk f1 f2 i).roots.length
    let value := lspValue f1 f2
    if n j = 10 then n (j + 1) = 10
    else if value (n j) (x j) < 0 ↔ value (n j) (g (j + 1)) < 0 then n (j + 1) = n j ∧ x (j + 1) = g (j + 1)
    else
      let b := Bracket.half (value (n j)) (Bracket.half (value (n j)) (x j, g (j + 1)))
      let yl := value (n j) b.1
      let yh := value (n j) b.2
      n (j + 1) = n j + 1 ∧ ((rootWalk f1 f2 50).roots.getD (n j) 0).toInt = x (j + 1)
        ∧ x (j + 1) = narrow16 ((b.1 : Rat) - yl * ((b.2 : Rat) - b.1) / (yh - yl)) := by
  intro g x n value
  have hwalk := rootWalk_onWalk f1 f2 j
  split
  case isTrue hdone =>
    have hstep : rootWalk f1 f2 (j + 1) = rootWalk f1 f2 j := RootSearch.visit_of_done hdone _
    exact (congrArg (fun st => st.roots.length) hstep).trans hdone
  case isFalse hdone =>
    split
    case isTrue hsign =>
      have hstep := RootSearch.visit_of_same_sign hwalk hdone hsign
      exact ⟨congrArg (fun st => st.roots.length) hstep, congrArg RootSearch.xa hstep⟩
    case isFalse hsign =>
      have hstep := RootSearch.visit_of_crossing hwalk hdone hsign
      have hroots := congrArg RootSearch.roots hstep
      have hxa := congrArg RootSearch.xa hstep
      refine ⟨?_, ?_, hxa.trans (Bracket.toInt_root_on _ _)⟩
      · exact (congrArg List.length hroots).trans List.length_append
      · exact (congrArg BitVec.toInt (rootWalk_getD_of_append f1 f2 hj hroots)).trans hxa.symm

end

/-! ### The command -/

/-- What `LSP.ROOT` writes: the words of `LSP`, kept for the next frame too, and whether the search failed. -/
def State.lspWritten (s : State) (word : Nat → I16) (failed : Bool) : State :=
  let s1 := (s.setAll .lsp word).raiseFlag .rootFail failed
  { s1 with enc := { s1.enc with lspPrev := Vec.tab word } }

section
variable (s : State) (word : Nat → I16) (failed : Bool)

theorem State.lspWritten_holds {i : Nat} (hi : i < 10) :
    (s.lspWritten word failed).holds .lsp i (word i).toInt :=
  State.holds_raiseFlag.mpr (s.holds_setAll hi rfl)

theorem State.lspWritten_lspPrev {i : Nat} (hi : i < 10) : let t := s.lspWritten word failed
    (t.enc.lspPrev.elD i 0).toInt = t.regs.int .lsp i := by
  obtain ⟨-, hlsp⟩ := s.lspWritten_holds word failed hi
  exact (congrArg BitVec.toInt ((Vec.elD_tab word i 0).trans (if_pos hi))).trans hlsp.symm

theorem State.lspWritten_enc : let t := s.lspWritten word failed
    t.enc = { s.enc with lspPrev := t.enc.lspPrev } := by
  simp only [State.lspWritten, State.raiseFlag_enc, State.setAll_enc]

theorem State.lspWritten_frame : let t := s.lspWritten word failed
    t.dec = s.dec ∧ t.flag .rootFail = (s.flag .rootFail || failed) ∧ controlKeptBut .rootFail s t
      ∧ regsKept (wholly [.lsp]) s t ∧ bufsKept nowhere s t := by
  obtain ⟨hflag, hcontrol, ⟨-, hdec⟩, hregs, hbufs⟩ :=
    ((WritesOnly.refl [.lsp] s).setAll (reg := .lsp) (f := word) (by simp)).raiseFlag .rootFail failed
  exact ⟨hdec, hflag, hcontrol, hregs, hbufs⟩

end

theorem lspRoot_cfg (s : State) :
    let roots := lspRoots cfg fun i => val (s.regs.int .a (i - 1)) cfg.qLp
    lspRoot cfg s = s.lspWritten (fun i => if roots.length == 10 then roots.getD i 0 else s.enc.lspPrev.elD i 0)
      (!(roots.length == 10)) := rfl

theorem exec_lspRoot {s : State} (hs : s.ready .e [.all .a] = true) : exec .lspRoot s = .next (lspRoot cfg s) :=
  checked_of_ready hs rfl

/-- Settles O15: the walk is `rootWalk` on the polynomials of R151, grid point by grid point
`rootWalk_step`. -/
theorem lspRootOrFallback : Obligations.LspRootOrFallback := by
  intro s hs a g
  set f1 := sumPoly a
  set f2 := diffPoly a
  have hexec := exec_lspRoot hs
  simp only [lspRoot_cfg, lspRoots_eq, beq_eq_decide, decide_eq_true_eq, ← decide_not] at hexec
  refine ⟨_, fun k => f1.getD k 0, fun k => f2.getD k 0, fun j => (rootWalk f1 f2 j).xa,
    fun j => (rootWalk f1 f2 j).roots.length, fun k => ((rootWalk f1 f2 50).roots.getD k 0).toInt,
    sumPoly_getD_zero a, diffPoly_getD_zero a, fun i hi => ⟨sumPoly_getD_succ a hi, diffPoly_getD_succ a hi⟩,
    ?walk, hexec, fun i hi => ?lsp, fun i hi => s.lspWritten_lspPrev _ _ hi, s.lspWritten_enc _ _,
    s.lspWritten_frame _ _⟩
  case walk =>
    intro value halve
    have hvalue : value = lspValue f1 f2 :=
      funext₂ fun k y => chebyshev_eq_lspValue (gen_length _ 6) (gen_length _ 6) k y
    have hhalve : halve = fun k b => Bracket.half (lspValue f1 f2 k) b := by
      rw [← hvalue]
      rfl
    rw [hhalve, hvalue]
    exact ⟨rfl, rfl, fun j hj => rootWalk_step f1 f2 hj⟩
  case lsp =>
    rw [← apply_ite BitVec.toInt]
    exact s.lspWritten_holds _ _ hi

end Sys2Proof.Machine

/-! # O23 to O29: the pitch units

The codeword maps come first, then the frames of part-written registers, then what the shared updates and
formulas (the window, the interpolation, the search) come to, and the commands in their order. -/

namespace Sys2Proof.Machine

-- One proof at a time: proofs elaborated side by side each hold a thread and its stack (as in the tests).
set_option Elab.async false

/-! ## The codeword maps (R186, R187, R217) -/

theorem p1Dec_p1Enc {lag f : Int} (hlo : 20 ≤ lag) (hhi : lag ≤ 143) (hf : -1 ≤ f) (hf' : f ≤ 1)
    (hint : 84 < lag → f = 0) :
    cfg.p1Dec (cfg.p1Enc lag f) = (lag, f) ∧ cfg.p1Enc lag f < 2 ^ 8 := by
  show p1DecDefault (p1EncDefault lag f) = (lag, f) ∧ p1EncDefault lag f < 2 ^ 8
  unfold p1EncDefault
  split
  case isTrue hthirds =>
    have hcode : ((lag - 19) * 3 + f - 1).toNat < 197 := by omega
    rw [p1DecDefault, if_pos hcode, Prod.mk.injEq]
    omega
  case isFalse hwhole =>
    have hcode : ¬(lag + 112).toNat < 197 := by omega
    rw [p1DecDefault, if_neg hcode, Prod.mk.injEq]
    omega

theorem p2Dec_p2Enc {lag f tmin : Int} (hlo : tmin ≤ lag) (hhi : lag ≤ tmin + 9) (hf : -1 ≤ f) (hf' : f ≤ 1) :
    cfg.p2Dec (cfg.p2Enc lag f tmin) tmin = (lag, f) ∧ cfg.p2Enc lag f tmin < 2 ^ 5 := by
  show p2DecDefault (p2EncDefault lag f tmin) tmin = (lag, f) ∧ p2EncDefault lag f tmin < 2 ^ 5
  rw [p2DecDefault, p2EncDefault, Prod.mk.injEq]
  omega

/-- A codeword of subframe 0 decodes to a lag and a fraction of R188. -/
theorem p1Dec_bounds {p1 : Nat} (h : p1 < 256) :
    (19 ≤ (cfg.p1Dec p1).1 ∧ (cfg.p1Dec p1).1 ≤ 143) ∧ -1 ≤ (cfg.p1Dec p1).2 ∧ (cfg.p1Dec p1).2 ≤ 1 := by
  show (19 ≤ (p1DecDefault p1).1 ∧ (p1DecDefault p1).1 ≤ 143)
    ∧ -1 ≤ (p1DecDefault p1).2 ∧ (p1DecDefault p1).2 ≤ 1
  unfold p1DecDefault
  split <;> dsimp only <;> omega

/-- A codeword of subframe 1 decodes to a lag of the window or the one next to it on either side. -/
theorem p2Dec_bounds {p2 : Nat} (h : p2 < 32) (tmin : Int) :
    (tmin - 1 ≤ (cfg.p2Dec p2 tmin).1 ∧ (cfg.p2Dec p2 tmin).1 ≤ tmin + 10)
      ∧ -1 ≤ (cfg.p2Dec p2 tmin).2 ∧ (cfg.p2Dec p2 tmin).2 ≤ 1 := by
  show (tmin - 1 ≤ (p2DecDefault p2 tmin).1 ∧ (p2DecDefault p2 tmin).1 ≤ tmin + 10)
    ∧ -1 ≤ (p2DecDefault p2 tmin).2 ∧ (p2DecDefault p2 tmin).2 ≤ 1
  unfold p2DecDefault
  dsimp only
  omega

/-- The four signs are the four bits of codeword S. -/
theorem signBits_roundTrip : ∀ p0 p1 p2 p3 : Bool,
    let s := signBit p0 + 2 * signBit p1 + 4 * signBit p2 + 8 * signBit p3
    ((s % 2 == 1) = p0 ∧ (s / 2 % 2 == 1) = p1 ∧ (s / 4 % 2 == 1) = p2 ∧ (s / 8 % 2 == 1) = p3) ∧ s < 16 := by
  decide

/-- The four positions are the fields of codeword C, track by track; the last has its track in a bit. -/
theorem positions_roundTrip {m0 m1 m2 m3 : Nat} (h0 : m0 < 40) (h1 : m1 < 40) (h2 : m2 < 40) (h3 : m3 < 40)
    (t0 : m0 % 5 = 0) (t1 : m1 % 5 = 1) (t2 : m2 % 5 = 2) (t3 : 3 ≤ m3 % 5) :
    let c := m0 / 5 + 8 * (m1 / 5) + 64 * (m2 / 5) + 512 * (2 * (m3 / 5) + if m3 % 5 = 3 then 0 else 1)
    (c % 8 * 5 = m0 ∧ c / 8 % 8 * 5 + 1 = m1 ∧ c / 64 % 8 * 5 + 2 = m2
      ∧ c / 1024 % 8 * 5 + 3 + c / 512 % 2 = m3) ∧ c < 8192 := by
  split <;> omega

theorem fcbDecode_fcbEncode (p : Pulses) (h0 : p.m0 < 40) (h1 : p.m1 < 40) (h2 : p.m2 < 40) (h3 : p.m3 < 40)
    (t0 : p.m0 % 5 = 0) (t1 : p.m1 % 5 = 1) (t2 : p.m2 % 5 = 2) (t3 : 3 ≤ p.m3 % 5) :
    cfg.fcbDecode (cfg.fcbEncode p).1 (cfg.fcbEncode p).2 = p
      ∧ (cfg.fcbEncode p).1 < 2 ^ 13 ∧ (cfg.fcbEncode p).2 < 2 ^ 4 := by
  obtain ⟨⟨hm0, hm1, hm2, hm3⟩, hc⟩ := positions_roundTrip h0 h1 h2 h3 t0 t1 t2 t3
  obtain ⟨⟨hp0, hp1, hp2, hp3⟩, hs⟩ := signBits_roundTrip p.p0 p.p1 p.p2 p.p3
  refine ⟨?_, hc, hs⟩
  show fcbDecodeDefault (fcbEncodeDefault p).1 (fcbEncodeDefault p).2 = p
  simp only [fcbDecodeDefault, fcbEncodeDefault, hm0, hm1, hm2, hm3, hp0, hp1, hp2, hp3]

/-- Settles O23: map by map. -/
theorem codewordsRoundTrip : Obligations.CodewordsRoundTrip :=
  ⟨fun _ _ => p1Dec_p1Enc, fun _ _ _ => p2Dec_p2Enc, fcbDecode_fcbEncode⟩

/-! ## Registers written in part -/

section
variable {s t : State} {written : Reg → Nat → Prop} {reg : Reg} {i first count : Nat}
  {f : Nat → BitVec reg.width} {v : Int} {n : Nat}

theorem regsKept.refl (written : Reg → Nat → Prop) (s : State) : regsKept written s s := fun _ _ _ => rfl

theorem regsKept.mono {written' : Reg → Nat → Prop} (h : regsKept written s t)
    (hle : ∀ reg i, written reg i → written' reg i) : regsKept written' s t :=
  fun reg i hout => h reg i fun hw => hout (hle reg i hw)

theorem regsKept.trans {u : State} (h : regsKept written s t) (h' : regsKept written t u) :
    regsKept written s u :=
  fun reg i hout => (h' reg i hout).trans (h reg i hout)

theorem regsKept.setAll (h : regsKept written s t) (hreg : ∀ i, written reg i) :
    regsKept written s (t.setAll reg f) := by
  intro reg' i hout
  have hne : reg' ≠ reg := fun heq => hout (heq ▸ hreg i)
  rw [State.setAll, Regs.get_setAll_of_ne _ hne]
  exact h reg' i hout

theorem regsKept.setFrom (h : regsKept written s t)
    (hreg : ∀ i, first ≤ i → i < first + count → written reg i) :
    regsKept written s (t.setFrom reg first count f) := by
  intro reg' i hout
  have houtside : ¬part reg first count reg' i := by
    rintro ⟨rfl, hlo, hhi⟩
    exact hout (hreg i hlo hhi)
  rw [setFrom_regsKept t reg first count f reg' i houtside]
  exact h reg' i hout

/-- An element that is kept holds what it held. -/
theorem State.holds_of_regsKept (h : regsKept written s t) (hout : ¬written reg i) (hs : s.holds reg i v) :
    t.holds reg i v := by
  obtain ⟨hint, -, hdef⟩ := Regs.read_congr (h reg i hout)
  rw [State.holds, hint, hdef]
  exact hs

theorem State.prmHolds_of_regsKept (h : regsKept written s t) (hout : ¬written .prm i) (hs : s.prmHolds i n) :
    t.prmHolds i n := by
  obtain ⟨-, hnat, hdef⟩ := Regs.read_congr (h .prm i hout)
  rw [State.prmHolds, hnat, hdef]
  exact hs

/-- A parameter written with a codeword of at most 16 bits. -/
theorem State.prmHolds_setFrom (s : State) (hi : i < 15) (hn : n < 2 ^ 16) :
    (s.setFrom .prm i 1 fun _ => BitVec.ofNat 16 n).prmHolds i n := by
  obtain ⟨-, hnat, hdef⟩ := Regs.read_of_some
    (elD_setFrom_of_lt s (reg := .prm) (first := i) Nat.one_pos hi fun _ => BitVec.ofNat 16 n)
  exact ⟨hdef, hnat.trans ((BitVec.toNat_ofNat n 16).trans (Nat.mod_eq_of_lt hn))⟩

/-- Where the one bit of `FSTAT` that may change has not, none has. -/
theorem controlKept_of_flag_eq {fl : StatFlag} (h : controlKeptBut fl s t) (hflag : t.flag fl = s.flag fl) :
    controlKept s t := by
  obtain ⟨hfctl, hmodel, hbits⟩ := h
  refine ⟨hfctl, BitVec.eq_of_getLsbD_eq fun k _ => ?_, hmodel⟩
  by_cases hk : k = fl.bit
  · rw [hk]
    exact hflag
  · exact hbits k hk

end

theorem toInt_sat16_of_bounds {x : Int} (hlo : -32768 ≤ x) (hhi : x ≤ 32767) : (sat16 x).toInt = x := by
  rw [sat16_toInt]
  omega

/-! ## The derived window (R181) -/

theorem derivedLow_bounds (lag : Int) : 20 ≤ derivedLow lag ∧ derivedLow lag ≤ 134 := by
  unfold derivedLow
  split <;> omega

theorem window1_cfg (lag : Int) : window1 cfg lag = (derivedLow lag, derivedLow lag + 9) := by
  show (if 143 < max 20 (lag - 5) + 9 then ((134 : Int), (143 : Int))
    else (max 20 (lag - 5), max 20 (lag - 5) + 9)) = _
  rw [derivedLow]
  by_cases htop : 139 < lag
  · rw [if_pos htop, if_pos (by omega)]
    rfl
  · rw [if_neg htop, if_neg (by omega)]

section
variable (s : State) (lag : Int)

theorem State.setWindow_holds : let t := State.setWindow cfg s lag
    t.holds .t0min 0 (derivedLow lag) ∧ t.holds .t0max 0 (derivedLow lag + 9) := by
  obtain ⟨hlo, hhi⟩ := derivedLow_bounds lag
  rw [State.setWindow, window1_cfg]
  refine ⟨(State.holds_setAll_of_ne (by decide)).mpr (s.holds_setAll Nat.one_pos ?_),
    State.holds_setAll _ Nat.one_pos ?_⟩
  · exact toInt_sat16_of_bounds (by omega) (by omega)
  · exact toInt_sat16_of_bounds (by omega) (by omega)

theorem State.setWindow_regsKept (c : Config) :
    regsKept (wholly [.t0min, .t0max]) s (State.setWindow c s lag) :=
  ((regsKept.refl _ s).setAll fun _ => by simp [wholly]).setAll fun _ => by simp [wholly]

end

theorem WritesOnly.setWindow {c : Config} {s t : State} {l : List Reg} {lag : Int} (h : WritesOnly l s t)
    (hmin : .t0min ∈ l) (hmax : .t0max ∈ l) : WritesOnly l s (State.setWindow c t lag) :=
  (h.setAll hmin).setAll hmax

/-! ## The lag, the fraction and the vector written -/

section
variable (s : State) {lag f : Int} (v : List I16)

theorem State.setPitch_holds_t0 (hlo : -32768 ≤ lag) (hhi : lag ≤ 32767) :
    (s.setPitch lag f v).holds .t0 0 lag :=
  (State.holds_setAll_of_ne (by decide)).mpr <| (State.holds_setAll_of_ne (by decide)).mpr <|
    s.holds_setAll Nat.one_pos (toInt_sat16_of_bounds hlo hhi)

theorem State.setPitch_holds_t0f (hlo : -1 ≤ f) (hhi : f ≤ 1) : (s.setPitch lag f v).holds .t0f 0 f :=
  (State.holds_setAll_of_ne (by decide)).mpr <| State.holds_setAll _ Nat.one_pos <|
    BitVec.toInt_ofInt_eq_self (by norm_num) (by norm_num; omega) (by norm_num; omega)

theorem State.setPitch_holds_acv {n : Nat} (hn : n < 40) :
    (s.setPitch lag f v).holds .acv n (v.getD n 0).toInt :=
  State.holds_setAll _ hn rfl

end

theorem WritesOnly.setPitch {s t : State} {l : List Reg} {lag f : Int} {v : List I16} (h : WritesOnly l s t)
    (h0 : .t0 ∈ l) (hf : .t0f ∈ l) (hv : .acv ∈ l) : WritesOnly l s (t.setPitch lag f v) :=
  ((h.setAll h0).setAll hf).setAll hv

/-! ## The interpolation (R190) -/

section
variable {lag f : Int}

/-- The first source index of the interpolation of a lag, before the sample number is added. -/
def interpBase (lag f : Int) : Int := if f = 1 then -lag - 1 else -lag

theorem interpPhase_eq (hlo : -1 ≤ f) (hhi : f ≤ 1) :
    interpPhase lag f = (if f = 0 then 0 else if f = 1 then 2 else 1, interpBase lag f) := by
  unfold interpBase
  obtain rfl | rfl | rfl : f = -1 ∨ f = 0 ∨ f = 1 := by omega
  all_goals rfl

theorem lagReadable_iff (hlo : -1 ≤ f) (hhi : f ≤ 1) : lagReadable lag f = true ↔ interpBase lag f ≤ -11 := by
  rw [lagReadable, interpPhase_eq hlo hhi, decide_eq_true_eq]

theorem lagInHistory_iff (sf : Subframe) (hlo : -1 ≤ f) (hhi : f ≤ 1) (hread : interpBase lag f ≤ -11) :
    lagInHistory sf lag f = true ↔ -154 ≤ 40 * sf.idx + interpBase lag f - 9 := by
  have hidx : sf.idx ≤ 1 := by cases sf <;> decide
  have hexc : Buf.exc.lo = -154 ∧ Buf.exc.hi = 79 := ⟨rfl, rfl⟩
  rw [lagInHistory, interpPhase_eq hlo hhi, Buf.inBounds, decide_eq_true_eq, sfBase]
  omega

/-- A source below the sample that is made reads the same in the whole vector. -/
theorem interpSrc_gen (bs : Buffers) (sf : Subframe) (sample : List I16 → Nat → I16) {n m : Nat} {j : Int}
    (hj : j < n) (hn : n ≤ m) : interpSrc bs sf (gen sample n) j
      = if j < 0 then bs.at .exc (sfBase sf + j) else ((gen sample m).getD j.toNat 0).toInt := by
  unfold interpSrc
  split
  case isTrue => rfl
  case isFalse h => rw [gen_getD_of_lt sample (by omega) hn]

/-- The vector of a lag and a fraction, as integers. -/
def State.pitchVec (s : State) (sf : Subframe) (lag f : Int) (n : Nat) : Int :=
  ((interp cfg s.bufs sf lag f).getD n 0).toInt

/-- Where no sample is read before it is made, the generated vector satisfies the equations of R190. -/
theorem interpolated_pitchVec (s : State) (sf : Subframe) (hlo : -1 ≤ f) (hhi : f ≤ 1)
    (hread : interpBase lag f ≤ -11) : interpolated s sf lag f (s.pitchVec sf lag f) := by
  unfold interpolated
  intro ph base src n hn
  have hsrc (j : Int) (hj : j < n) :
      interpSrc s.bufs sf (gen (interpSample cfg s.bufs sf lag f) n) j = src j :=
    interpSrc_gen s.bufs sf _ hj hn.le
  have hbefore (i : Nat) (_ : i ∈ Finset.range 10) :
      interpSrc s.bufs sf (gen (interpSample cfg s.bufs sf lag f) n) (interpBase lag f + n - i)
        = src (base + n - i) := hsrc _ (by omega)
  have hafter (i : Nat) (hi : i ∈ Finset.range 10) :
      interpSrc s.bufs sf (gen (interpSample cfg s.bufs sf lag f) n) (interpBase lag f + n + 1 + i)
        = src (base + n + 1 + i) := hsrc _ (by have := Finset.mem_range.mp hi; omega)
  rw [State.pitchVec, interp, gen_getD _ hn, interpSample, toInt_sat16_shrR, interpPhase_eq hlo hhi,
    sumN_eq_sum, sumN_eq_sum, Finset.sum_congr rfl fun i hi => congrArg (· * _) (hbefore i hi),
    Finset.sum_congr rfl fun i hi => congrArg (· * _) (hafter i hi)]

end

/-! ## PIT.INTERP (R189) -/

theorem exec_pitInterp {s : State} {sf : Subframe} (hs : s.ready .ed [.all .t0, .all .t0f] = true)
    (hlag : 19 ≤ s.regs.int .t0 0 ∧ s.regs.int .t0 0 ≤ 144)
    (hfrac : -1 ≤ s.regs.int .t0f 0 ∧ s.regs.int .t0f 0 ≤ 1) :
    exec (.pitInterp sf) s = .next (pitInterp cfg sf s) := by
  refine checked_of_ready hs ?_
  rw [Regs.lagInRange, fracInRange, Bool.and_eq_true, decide_eq_true_eq, decide_eq_true_eq]
  exact ⟨hlag, by omega⟩

/-- Settles O25: the lags of R188 lie far enough back for the vector to satisfy the equations. -/
theorem pitInterpVector : Obligations.PitInterpVector := by
  intro s sf hs hlo hhi hflo hfhi
  have hread : interpBase (s.regs.int .t0 0) (s.regs.int .t0f 0) ≤ -11 := by
    unfold interpBase
    split <;> omega
  have hwrites : WritesOnly [.acv] s (pitInterp cfg sf s) := (WritesOnly.refl _ s).setAll (by simp)
  obtain ⟨hcontrol, hchannel, hregs, hbufs⟩ := hwrites
  exact ⟨pitInterp cfg sf s, s.pitchVec sf _ _, exec_pitInterp hs ⟨hlo, hhi⟩ ⟨hflo, hfhi⟩,
    fun n hn => s.holds_setAll hn rfl, interpolated_pitchVec s sf hflo hfhi hread, hcontrol, hchannel, hregs,
    hbufs⟩

/-! ## PIT.CONV (R195) -/

theorem exec_pitConv {s : State} (hs : s.ready .e [.all .acv, .all .h] = true) :
    exec .pitConv s = .next (pitConv cfg s) :=
  checked_of_ready hs rfl

theorem convSum_eq_sum (u v : Nat → Int) (n : Nat) :
    convSum u v n = ∑ i ∈ Finset.range (n + 1), u i * v (n - i) := sumN_eq_sum _ _

/-- Settles O29: one register is written, with the narrowed convolution sums. -/
theorem pitConvFilters : Obligations.PitConvFilters := fun s hs =>
  ⟨pitConv cfg s, exec_pitConv hs,
    fun _ hn => s.holds_setAll hn (by rw [toInt_sat16_shrR, convSum_eq_sum]),
    (WritesOnly.refl _ s).setAll (by simp)⟩

/-! ## PIT.DEC (R192 to R194)

The lag and the fraction come from a codeword, or from the last subframe where this one was lost
(`PitDecTakes`). From there on the good subframe, the fallback and the odd lags are one case: where the
interpolation of such a lag runs (`interpRuns`), `pitDec_leaves` says what the command leaves. -/

/-- On the branch that `s` makes `PIT.DEC` take its operands pass the checks, the lag and the fraction are
`lag` and `f`, and `next` is what `D.PITCH_LAST` becomes. -/
structure PitDecTakes (s : State) (sf : Subframe) (lag f next : Int) : Prop where
  ready : s.ready .d (pitDecNeeds sf s) = true
  inRange : pitDecInRange sf s = true
  decoded : decLag cfg sf s = (lag, f)
  frac_low : -1 ≤ f
  frac_high : f ≤ 1
  last : next = if s.pitchLost sf then min (lag + 1) 143 else lag

/-- Every sample the interpolation reads exists and lies in `EXC` (R61, R190). -/
def interpRuns (sf : Subframe) (lag f : Int) : Prop :=
  interpBase lag f ≤ -11 ∧ -154 ≤ 40 * sf.idx + interpBase lag f - 9

theorem interpRuns_of_lag (sf : Subframe) {lag f : Int} (hlo : 19 ≤ lag) (hhi : lag ≤ 144) : interpRuns sf lag f := by
  unfold interpRuns interpBase
  split <;> omega

theorem lag_bounds_of_interpRuns {sf : Subframe} {lag f : Int} (h : interpRuns sf lag f) : 10 ≤ lag ∧ lag ≤ 185 := by
  have hidx : sf.idx ≤ 1 := by cases sf <;> decide
  unfold interpRuns interpBase at h
  split at h <;> omega

theorem pitchLost_eq (s : State) (sf : Subframe) :
    s.pitchLost sf = (s.bfi || (decide (sf = .first) && s.pe)) := by
  cases sf <;> simp [State.pitchLost]

/-! ### Where the lag comes from -/

section
variable {s : State} {sf : Subframe}

theorem pitDecTakes_of_lost (hs : s.ready .d [] = true) (hlost : s.pitchLost sf = true) :
    PitDecTakes s sf s.dec.pitchLast.toInt 0 (min (s.dec.pitchLast.toInt + 1) 143) where
  ready := by
    unfold pitDecNeeds
    rwa [if_pos hlost]
  inRange := by
    unfold pitDecInRange
    rw [hlost, Bool.true_or]
  decoded := by
    unfold decLag
    rw [if_pos hlost]
  frac_low := by norm_num
  frac_high := by norm_num
  last := by rw [if_pos hlost]

theorem pitDecTakes_first (hs : s.ready .d [needPrm 4 1] = true) (hlost : s.pitchLost .first = false)
    (hprm : s.regs.nat .prm 4 < 256) : let lf := cfg.p1Dec (s.regs.nat .prm 4)
    PitDecTakes s .first lf.1 lf.2 lf.1 where
  ready := by simpa only [pitDecNeeds, hlost, Bool.false_eq_true, if_false] using hs
  inRange := by
    rw [pitDecInRange, hlost, Bool.false_or]
    exact decide_eq_true hprm
  decoded := by simp only [decLag, hlost, Bool.false_eq_true, if_false]
  frac_low := (p1Dec_bounds hprm).2.1
  frac_high := (p1Dec_bounds hprm).2.2
  last := by simp only [hlost, Bool.false_eq_true, if_false]

theorem pitDecTakes_second (hs : s.ready .d [needPrm 10 1, .all .t0min, .all .t0max] = true)
    (hlost : s.pitchLost .second = false) (hprm : s.regs.nat .prm 10 < 32) :
    let lf := cfg.p2Dec (s.regs.nat .prm 10) (s.regs.int .t0min 0)
    PitDecTakes s .second lf.1 lf.2 lf.1 where
  ready := by simpa only [pitDecNeeds, hlost, Bool.false_eq_true, if_false] using hs
  inRange := by
    rw [pitDecInRange, hlost, Bool.false_or]
    exact decide_eq_true hprm
  decoded := by simp only [decLag, hlost, Bool.false_eq_true, if_false]
  frac_low := (p2Dec_bounds hprm _).2.1
  frac_high := (p2Dec_bounds hprm _).2.2
  last := by simp only [hlost, Bool.false_eq_true, if_false]

end

/-! ### What it does with it -/

section
variable {s : State} {sf : Subframe} {lag f next : Int}

theorem exec_pitDec (h : PitDecTakes s sf lag f next) : exec (.pitDec sf) s =
    require (lagReadable lag f) .parameterRange
      (require (lagInHistory sf lag f) .bufferBounds (.next (pitDec cfg sf s))) := by
  show execPitDec sf s = _
  rw [execPitDec, h.decoded, checked_of_ready h.ready h.inRange, realised_cfg]

theorem exec_pitDec_of_unreadable (h : PitDecTakes s sf lag f next) (hread : -11 < interpBase lag f) :
    exec (.pitDec sf) s = .refused .parameterRange := by
  have hbad : lagReadable lag f = false := by
    rw [← Bool.not_eq_true, lagReadable_iff h.frac_low h.frac_high]
    omega
  rw [exec_pitDec h, hbad]
  rfl

theorem exec_pitDec_of_outside (h : PitDecTakes s sf lag f next)
    (hout : 40 * sf.idx + interpBase lag f - 9 < -154) : exec (.pitDec sf) s = .refused .bufferBounds := by
  have hread : interpBase lag f ≤ -11 := by omega
  have hbad : lagInHistory sf lag f = false := by
    rw [← Bool.not_eq_true, lagInHistory_iff sf h.frac_low h.frac_high hread]
    omega
  rw [exec_pitDec h, (lagReadable_iff h.frac_low h.frac_high).mpr hread, hbad]
  rfl

theorem exec_pitDec_of_runs (h : PitDecTakes s sf lag f next) (hruns : interpRuns sf lag f) :
    exec (.pitDec sf) s = .next (pitDec cfg sf s) := by
  obtain ⟨hread, hin⟩ := hruns
  rw [exec_pitDec h, (lagReadable_iff h.frac_low h.frac_high).mpr hread,
    (lagInHistory_iff sf h.frac_low h.frac_high hread).mpr hin]
  rfl

/-- The operand registers that `PIT.DEC` writes. -/
def pitDecRegs : Subframe → List Reg
  | .first => [.t0, .t0f, .acv, .t0min, .t0max]
  | .second => [.t0, .t0f, .acv]

/-- The operand registers as `PIT.DEC` leaves them. -/
def State.pitchWritten (s : State) (sf : Subframe) (lag f : Int) : State :=
  let s1 := s.setPitch lag f (interp cfg s.bufs sf lag f)
  match sf with
  | .first => State.setWindow cfg s1 lag
  | .second => s1

theorem State.pitchWritten_writesOnly (s : State) (sf : Subframe) (lag f : Int) :
    WritesOnly (pitDecRegs sf) s (s.pitchWritten sf lag f) := by
  cases sf with
  | first =>
    exact ((WritesOnly.refl _ s).setPitch (by decide) (by decide) (by decide)).setWindow (by decide) (by decide)
  | second => exact (WritesOnly.refl _ s).setPitch (by decide) (by decide) (by decide)

theorem State.holds_pitchWritten {reg : Reg} {i : Nat} {v : Int} (h0 : reg ≠ .t0min) (h1 : reg ≠ .t0max)
    (h : (s.setPitch lag f (interp cfg s.bufs sf lag f)).holds reg i v) :
    (s.pitchWritten sf lag f).holds reg i v := by
  cases sf with
  | first => exact State.holds_of_regsKept (State.setWindow_regsKept _ lag cfg) (by simp [wholly, h0, h1]) h
  | second => exact h

theorem pitDec_eq (h : PitDecTakes s sf lag f next) : pitDec cfg sf s =
    ((s.pitchWritten sf lag f).raiseFlag .conceal (s.pitchLost sf)).setPitchLast (sat16 next) := by
  have hlast : nextPitchLast cfg sf s = sat16 next := by
    have hdecoded := h.decoded
    rw [nextPitchLast, h.last, hdecoded]
    cases hlost : s.pitchLost sf with
    | false => rfl
    | true =>
      unfold decLag at hdecoded
      rw [if_pos hlost, Prod.mk.injEq] at hdecoded
      rw [hdecoded.1]
      rfl
  unfold pitDec
  rw [hlast, h.decoded]
  cases sf <;> cases s.pitchLost _ <;> rfl

/-- What `PIT.DEC` leaves where it runs: the lag, the fraction and the vector, the window they lead to in
subframe 0, and the frame (R192 to R194). -/
structure PitDecLeaves (s : State) (sf : Subframe) (lag f next : Int) (t : State) : Prop where
  t0 : t.holds .t0 0 lag
  t0f : t.holds .t0f 0 f
  acv : ∀ n < 40, t.holds .acv n (s.pitchVec sf lag f n)
  vector : interpolated s sf lag f (s.pitchVec sf lag f)
  pitchLast : t.dec.pitchLast.toInt = next
  dec : t.dec = { s.dec with pitchLast := t.dec.pitchLast }
  first : sf = .first → t.holds .t0min 0 (derivedLow lag) ∧ t.holds .t0max 0 (derivedLow lag + 9)
    ∧ regsKept (wholly [.t0, .t0f, .acv, .t0min, .t0max]) s t
  second : sf = .second → regsKept (wholly [.t0, .t0f, .acv]) s t
  conceal : t.flag .conceal = (s.flag .conceal || s.pitchLost sf)
  enc : t.enc = s.enc
  control : controlKeptBut .conceal s t
  bufs : bufsKept nowhere s t

theorem pitDec_leaves (h : PitDecTakes s sf lag f next) (hruns : interpRuns sf lag f) :
    PitDecLeaves s sf lag f next (pitDec cfg sf s) := by
  obtain ⟨hlo, hhi⟩ := lag_bounds_of_interpRuns hruns
  obtain ⟨hflag, hcontrol, ⟨henc, hdec⟩, hregs, hbufs⟩ :=
    (s.pitchWritten_writesOnly sf lag f).raiseFlag .conceal (s.pitchLost sf)
  have hholds {reg : Reg} {i : Nat} {v : Int} (hv : (s.pitchWritten sf lag f).holds reg i v) :
      ((s.pitchWritten sf lag f).raiseFlag .conceal (s.pitchLost sf)).holds reg i v := State.holds_raiseFlag.mpr hv
  have hnext : -32768 ≤ next ∧ next ≤ 32767 := by
    rw [h.last]
    split <;> omega
  rw [pitDec_eq h]
  exact {
    t0 := hholds (State.holds_pitchWritten (by decide) (by decide)
      (s.setPitch_holds_t0 _ (by omega) (by omega)))
    t0f := hholds (State.holds_pitchWritten (by decide) (by decide)
      (s.setPitch_holds_t0f _ h.frac_low h.frac_high))
    acv := fun n hn => hholds (State.holds_pitchWritten (by decide) (by decide) (s.setPitch_holds_acv _ hn))
    vector := interpolated_pitchVec s sf h.frac_low h.frac_high hruns.1
    pitchLast := toInt_sat16_of_bounds hnext.1 hnext.2
    dec := by simp only [State.setPitchLast, hdec]
    first := by
      rintro rfl
      obtain ⟨hmin, hmax⟩ := (s.setPitch lag f (interp cfg s.bufs .first lag f)).setWindow_holds lag
      exact ⟨hholds hmin, hholds hmax, hregs⟩
    second := by
      rintro rfl
      exact hregs
    conceal := hflag
    enc := henc
    control := hcontrol
    bufs := hbufs }

end

/-- Settles O26: the lags of the codewords are those of R188, on which the interpolation runs. -/
theorem pitDecGoodSubframe : Obligations.PitDecGoodSubframe := by
  intro s sf hs hbfi hpe hprm hwin lf
  have hlost : s.pitchLost sf = false := by
    rw [pitchLost_eq, hbfi, Bool.false_or, Bool.and_eq_false_iff]
    by_cases hsf : sf = .first
    · exact .inr (hpe hsf)
    · exact .inl (decide_eq_false hsf)
  obtain ⟨htakes, hlo, hhi⟩ : PitDecTakes s sf lf.1 lf.2 lf.1 ∧ 19 ≤ lf.1 ∧ lf.1 ≤ 144 := by
    cases sf with
    | first =>
      obtain ⟨⟨hlo, hhi⟩, -⟩ := p1Dec_bounds hprm
      exact ⟨pitDecTakes_first hs hlost hprm, hlo, hhi.trans (by norm_num)⟩
    | second =>
      obtain ⟨⟨hlo, hhi⟩, -⟩ := p2Dec_bounds hprm (s.regs.int .t0min 0)
      obtain ⟨hmin, hmin'⟩ := hwin rfl
      exact ⟨pitDecTakes_second hs hlost hprm, le_trans (by omega) hlo, hhi.trans (by omega)⟩
  have hruns := interpRuns_of_lag sf hlo hhi (f := lf.2)
  have h := pitDec_leaves htakes hruns
  have hconceal : (pitDec cfg sf s).flag .conceal = s.flag .conceal := by rw [h.conceal, hlost, Bool.or_false]
  exact ⟨_, _, exec_pitDec_of_runs htakes hruns, h.t0, h.t0f, hlo, hhi, htakes.frac_low, htakes.frac_high, h.acv,
    h.vector, h.pitchLast, h.dec, h.first, h.second, h.enc, controlKept_of_flag_eq h.control hconceal, h.bufs⟩

/-- Settles O27: the stored lag takes the place of the decoded one. -/
theorem pitDecFallback : Obligations.PitDecFallback := by
  intro s sf hs hlost hlo hhi lag
  have hlost : s.pitchLost sf = true := by cases sf <;> exact hlost
  have htakes := pitDecTakes_of_lost hs hlost
  have hruns := interpRuns_of_lag sf hlo hhi (f := 0)
  have h := pitDec_leaves htakes hruns
  have hconceal : (pitDec cfg sf s).flag .conceal = true := by rw [h.conceal, hlost, Bool.or_true]
  exact ⟨_, _, exec_pitDec_of_runs htakes hruns, h.t0, h.t0f, h.acv, h.vector, h.pitchLast, h.dec, h.first, h.second,
    h.enc, hconceal, h.control, h.bufs⟩

/-- Settles O28: the two tests of `execPitDec` are on the highest and the lowest source index. -/
theorem pitDecOddWindow : Obligations.PitDecOddWindow := by
  intro s sf lag f next hsource base lowest
  have htakes : PitDecTakes s sf lag f next := by
    rcases hsource with ⟨rfl, hs, hbfi, hprm, hlf, rfl⟩ | ⟨hs, hlost, rfl, rfl, rfl⟩
    · have hgood := pitDecTakes_second hs hbfi hprm
      rwa [hlf] at hgood
    · refine pitDecTakes_of_lost hs ?_
      simpa [pitchLost_eq] using hlost
  refine ⟨exec_pitDec_of_unreadable htakes, exec_pitDec_of_outside htakes, fun hin hread => ?_⟩
  have h := pitDec_leaves htakes ⟨hread, hin⟩
  have hconceal := h.conceal
  rw [pitchLost_eq, ← Bool.or_assoc] at hconceal
  exact ⟨_, _, exec_pitDec_of_runs htakes ⟨hread, hin⟩, h.t0, h.t0f, h.acv, h.vector, h.pitchLast, h.dec, h.first,
    h.second, hconceal, h.enc, h.control, h.bufs⟩

/-! ## PIT.CL (R180 to R184) -/

/-! ### The search (R121, R182, R183) -/

theorem mem_intRange {lo hi k : Int} : k ∈ intRange lo hi ↔ lo ≤ k ∧ k ≤ hi := by
  rw [intRange, mem_tabFrom]
  constructor
  · rintro ⟨i, hi, rfl⟩
    omega
  · rintro ⟨hlo, hhi⟩
    exact ⟨(k - lo).toNat, by omega, by omega⟩

theorem pairwise_le_intRange (lo hi : Int) : (intRange lo hi).Pairwise (· ≤ ·) :=
  pairwise_le_tabFrom fun i _ => by push_cast; omega

/-- The search over a window returns the lowest of its best. -/
theorem argMax_intRange (score : Int → Int) (d : Int) {lo hi : Int} (h : lo ≤ hi) :
    let best := argMax score d (intRange lo hi)
    (lo ≤ best ∧ best ≤ hi) ∧ (∀ k, lo ≤ k → k ≤ hi → score k ≤ score best)
      ∧ ∀ k, lo ≤ k → k < best → score k < score best := by
  intro best
  have hne : intRange lo hi ≠ [] := List.ne_nil_of_mem (mem_intRange.mpr ⟨le_rfl, h⟩)
  obtain ⟨hlo, hhi⟩ := mem_intRange.mp (argMax_mem score d hne)
  refine ⟨⟨hlo, hhi⟩, fun k hk hk' => le_argMax score d (mem_intRange.mpr ⟨hk, hk'⟩), fun k hk hlt => ?_⟩
  obtain ⟨before, after, hsplit, hfirst⟩ := argMax_first score d hne
  have hsorted := pairwise_le_intRange lo hi
  have hmem : k ∈ intRange lo hi := mem_intRange.mpr ⟨hk, hlt.le.trans hhi⟩
  rw [hsplit] at hmem hsorted
  obtain ⟨-, htail, -⟩ := List.pairwise_append.mp hsorted
  rcases List.mem_append.mp hmem with hbefore | hrest
  · exact hfirst k hbefore
  · rcases List.mem_cons.mp hrest with heq | hafter
    · exact absurd heq hlt.ne
    · exact absurd ((List.pairwise_cons.mp htail).1 k hafter) (not_le.mpr hlt)

/-- The search over the fractions, in their order 0, -1, +1. -/
theorem argMax_fractions (score : Int → Int) : let f := argMax score 0 [0, -1, 1]
    (f = 0 ∧ score (-1) ≤ score 0 ∧ score 1 ≤ score 0)
      ∨ (f = -1 ∧ score 0 < score (-1) ∧ score 1 ≤ score (-1))
      ∨ (f = 1 ∧ score 0 < score 1 ∧ score (-1) < score 1) := by
  simp only [argMax, keepMax]
  split <;> split <;> omega

/-! ### The scores -/

theorem backFiltered_getD (rs : Regs) {n : Nat} (hn : n < 40) : (backFiltered rs).getD n 0
    = ∑ i ∈ Finset.range (40 - n), rs.int .x (n + i) * rs.int .h i := by
  rw [backFiltered, tabFrom_getD, if_pos hn, Nat.zero_add, sumN_eq_sum]

theorem lagScore_backFiltered (s : State) (sf : Subframe) (k : Int) :
    lagScore s.bufs sf (backFiltered s.regs) k = ∑ n ∈ Finset.range 40,
      (∑ i ∈ Finset.range (40 - n), s.regs.int .x (n + i) * s.regs.int .h i)
        * s.bufs.at .exc (sfBase sf + n - k) := by
  rw [lagScore, sumN_eq_sum]
  exact Finset.sum_congr rfl fun n hn => by rw [backFiltered_getD _ (Finset.mem_range.mp hn)]

theorem fracScore_backFiltered (s : State) (sf : Subframe) (lag f : Int) :
    fracScore (backFiltered s.regs) (interp cfg s.bufs sf lag f) = ∑ n ∈ Finset.range 40,
      (∑ i ∈ Finset.range (40 - n), s.regs.int .x (n + i) * s.regs.int .h i) * s.pitchVec sf lag f n := by
  rw [fracScore, sumN_eq_sum]
  exact Finset.sum_congr rfl fun n hn => by rw [backFiltered_getD _ (Finset.mem_range.mp hn), State.pitchVec]

theorem clFrac_cfg (s : State) (sf : Subframe) (lag : Int) : clFrac cfg sf s lag =
    if sf = .first ∧ 84 < lag then 0
    else argMax (fun f => fracScore (backFiltered s.regs) (interp cfg s.bufs sf lag f)) 0 [0, -1, 1] := rfl

/-- What R183 says of the fraction chosen for a lag. -/
theorem clFrac_spec (s : State) (sf : Subframe) (lag : Int) :
    let f := clFrac cfg sf s lag
    let score := fun f => fracScore (backFiltered s.regs) (interp cfg s.bufs sf lag f)
    (sf = .first ∧ 84 < lag ∧ f = 0)
      ∨ (¬(sf = .first ∧ 84 < lag)
        ∧ ((f = 0 ∧ score (-1) ≤ score 0 ∧ score 1 ≤ score 0)
          ∨ (f = -1 ∧ score 0 < score (-1) ∧ score 1 ≤ score (-1))
          ∨ (f = 1 ∧ score 0 < score 1 ∧ score (-1) < score 1))) := by
  intro f score
  by_cases hlong : sf = .first ∧ 84 < lag
  · obtain ⟨hsf, hlag⟩ := hlong
    exact .inl ⟨hsf, hlag, (clFrac_cfg s sf lag).trans (if_pos ⟨hsf, hlag⟩)⟩
  · have hf : f = argMax score 0 [0, -1, 1] := (clFrac_cfg s sf lag).trans (if_neg hlong)
    rw [hf]
    exact .inr ⟨hlong, argMax_fractions score⟩

theorem clFrac_bounds (s : State) (sf : Subframe) (lag : Int) :
    -1 ≤ clFrac cfg sf s lag ∧ clFrac cfg sf s lag ≤ 1 := by
  rcases clFrac_spec s sf lag with ⟨-, -, hf⟩ | ⟨-, ⟨hf, -⟩ | ⟨hf, -⟩ | ⟨hf, -⟩⟩ <;> rw [hf] <;> norm_num

/-! ### The windows (R181, R182) -/

/-- `tmin` of `Window0(tol)` with its defaults (R181); `tmax` is 6 more. -/
def openLow (tol : Int) : Int := if 140 < tol then 137 else max 20 (tol - 3)

theorem window0_cfg (tol : Int) : window0 cfg tol = (openLow tol, openLow tol + 6) := by
  show (if 143 < max 20 (tol - 3) + 6 then ((137 : Int), (143 : Int))
    else (max 20 (tol - 3), max 20 (tol - 3) + 6)) = _
  rw [openLow]
  by_cases htop : 140 < tol
  · rw [if_pos htop, if_pos (by omega)]
    rfl
  · rw [if_neg htop, if_neg (by omega)]

theorem openLow_bounds (tol : Int) : 20 ≤ openLow tol ∧ openLow tol ≤ 137 := by
  unfold openLow
  split <;> omega

/-- The lowest lag of the window that `PIT.CL` searches. -/
def clLow (s : State) : Subframe → Int
  | .first => openLow (s.regs.int .tol 0)
  | .second => s.regs.int .t0min 0

/-- The highest one. -/
def clHigh (s : State) : Subframe → Int
  | .first => clLow s .first + 6
  | .second => clLow s .second + 9

/-- The windows of the obligation: that of `TOL`, or the one `T0MIN` and `T0MAX` hold, if R181 produces it. -/
def clWindowOk (s : State) (sf : Subframe) : Prop :=
  sf = .second → 20 ≤ s.regs.int .t0min 0 ∧ s.regs.int .t0max 0 = s.regs.int .t0min 0 + 9
    ∧ s.regs.int .t0max 0 ≤ 143

section
variable {s : State} {sf : Subframe}

theorem clWindow_cfg (h : clWindowOk s sf) : clWindow cfg s.regs sf = (clLow s sf, clHigh s sf) := by
  cases sf with
  | first => exact window0_cfg _
  | second =>
    obtain ⟨-, hmax, -⟩ := h rfl
    rw [clWindow, hmax]
    rfl

theorem clWindow_bounds (h : clWindowOk s sf) : 20 ≤ clLow s sf ∧ clLow s sf ≤ clHigh s sf ∧ clHigh s sf ≤ 143 := by
  cases sf with
  | first =>
    obtain ⟨hlo, hhi⟩ := openLow_bounds (s.regs.int .tol 0)
    rw [clHigh, clLow]
    omega
  | second =>
    obtain ⟨hlo, hmax, hhi⟩ := h rfl
    rw [clHigh, clLow]
    omega

/-- What R182 says of the lag chosen. -/
theorem clLag_spec (h : clWindowOk s sf) :
    let lag := clLag cfg sf s
    let score := lagScore s.bufs sf (backFiltered s.regs)
    (clLow s sf ≤ lag ∧ lag ≤ clHigh s sf)
      ∧ (∀ k, clLow s sf ≤ k → k ≤ clHigh s sf → score k ≤ score lag)
      ∧ ∀ k, clLow s sf ≤ k → k < lag → score k < score lag := by
  rw [clLag, clWindow_cfg h]
  exact argMax_intRange _ _ (clWindow_bounds h).2.1

end

/-! ### The codewords and the parity bit (R184, R186, R187, R191) -/

theorem parity_cfg (p1 : Nat) : cfg.parity p1 = oddParity p1 := by
  show parityDefault p1 = oddParity p1
  rw [parityDefault, oddParity, Finset.sum_Ico_eq_sum_range]
  simp only [Finset.sum_range_succ, Finset.sum_range_zero, ← Nat.add_assoc]
  rfl

theorem oddParity_lt (p1 : Nat) : oddParity p1 < 2 := Nat.mod_lt _ Nat.two_pos

/-! ### The command -/

section
variable {s : State} {sf : Subframe}

theorem exec_pitCl (hs : s.ready .e (pitClNeeds sf) = true) (hwin : clWindowOk s sf) :
    exec (.pitCl sf) s = .next (pitCl cfg sf s) := by
  refine checked_of_ready hs ?_
  cases sf with
  | first => rfl
  | second => exact decide_eq_true (hwin rfl)

/-- The lag, the fraction and the vector that `PIT.CL` writes, before the codewords. -/
def State.pitchSearched (s : State) (sf : Subframe) : State :=
  let lag := clLag cfg sf s
  let f := clFrac cfg sf s lag
  s.setPitch lag f (interp cfg s.bufs sf lag f)

theorem State.pitchSearched_regsKept (s : State) (sf : Subframe) :
    regsKept (wholly [.t0, .t0f, .acv]) s (s.pitchSearched sf) := by
  obtain ⟨-, -, hregs, -⟩ := (WritesOnly.refl [.t0, .t0f, .acv] s).setPitch (lag := clLag cfg sf s)
    (f := clFrac cfg sf s (clLag cfg sf s))
    (v := interp cfg s.bufs sf (clLag cfg sf s) (clFrac cfg sf s (clLag cfg sf s)))
    (by decide) (by decide) (by decide)
  exact hregs

/-- `PRM[4]` and `PRM[5]` written with the codeword of subframe 0 and its parity bit. -/
def State.setP1 (s : State) (p1 : Nat) : State :=
  (s.setFrom .prm 4 1 fun _ => BitVec.ofNat 16 p1).setFrom .prm 5 1 fun _ => BitVec.ofNat 16 (cfg.parity p1)

theorem State.setP1_prmHolds (s : State) {p1 : Nat} (h : p1 < 2 ^ 8) :
    (s.setP1 p1).prmHolds 4 p1 ∧ (s.setP1 p1).prmHolds 5 (oddParity p1) := by
  have hparity : oddParity p1 < 2 ^ 16 := (oddParity_lt p1).trans (by norm_num)
  rw [State.setP1, parity_cfg]
  exact ⟨State.prmHolds_of_regsKept (setFrom_regsKept _ _ _ _ _) (by simp [part])
      (s.prmHolds_setFrom (by norm_num) (h.trans (by norm_num))),
    State.prmHolds_setFrom _ (by norm_num) hparity⟩

theorem State.setP1_regsKept (s : State) (p1 : Nat) : regsKept (part .prm 4 2) s (s.setP1 p1) :=
  ((regsKept.refl _ s).setFrom fun _ hlo hhi => ⟨rfl, by omega, by omega⟩).setFrom
    fun _ hlo hhi => ⟨rfl, by omega, by omega⟩

theorem pitCl_first (s : State) : let lag := clLag cfg .first s
    pitCl cfg .first s = State.setWindow cfg
      ((s.pitchSearched .first).setP1 (cfg.p1Enc lag (clFrac cfg .first s lag))) lag := rfl

theorem pitCl_second (s : State) : let lag := clLag cfg .second s
    pitCl cfg .second s = (s.pitchSearched .second).setFrom .prm 10 1
      fun _ => BitVec.ofNat 16 (cfg.p2Enc lag (clFrac cfg .second s lag) (clLow s .second)) := rfl

theorem pitCl_control (s : State) (sf : Subframe) :
    controlKept s (pitCl cfg sf s) ∧ channelKept s (pitCl cfg sf s) ∧ bufsKept nowhere s (pitCl cfg sf s) := by
  cases sf with
  | first =>
    simp [pitCl_first, State.setP1, State.pitchSearched, controlKept, modelKept, channelKept, bufsKept]
  | second => simp [pitCl_second, State.pitchSearched, controlKept, modelKept, channelKept, bufsKept]

/-- What the search found is not written over. -/
theorem holds_pitCl {reg : Reg} {i : Nat} {v : Int} (hprm : reg ≠ .prm) (hmin : reg ≠ .t0min) (hmax : reg ≠ .t0max)
    (h : (s.pitchSearched sf).holds reg i v) : (pitCl cfg sf s).holds reg i v := by
  cases sf with
  | first =>
    exact State.holds_of_regsKept (State.setWindow_regsKept _ _ cfg) (by simp [wholly, hmin, hmax])
      (State.holds_of_regsKept (State.setP1_regsKept _ _) (by simp [part, hprm]) h)
  | second => exact State.holds_of_regsKept (setFrom_regsKept _ _ _ _ _) (by simp [part, hprm]) h

/-- What subframe 0 leaves in the parameters and the window, and its frame. -/
theorem pitCl_first_leaves {lag f : Int} (hlag : clLag cfg .first s = lag) (hf : clFrac cfg .first s lag = f)
    (hcode : cfg.p1Enc lag f < 2 ^ 8) : let t := pitCl cfg .first s
    t.prmHolds 4 (cfg.p1Enc lag f) ∧ t.prmHolds 5 (oddParity (cfg.p1Enc lag f))
      ∧ t.holds .t0min 0 (derivedLow lag) ∧ t.holds .t0max 0 (derivedLow lag + 9)
      ∧ regsKept (fun reg i => wholly [.t0, .t0f, .acv, .t0min, .t0max] reg i ∨ part .prm 4 2 reg i) s t := by
  simp only [pitCl_first, hlag, hf]
  obtain ⟨hp1, hparity⟩ := (s.pitchSearched .first).setP1_prmHolds hcode
  obtain ⟨hmin, hmax⟩ := ((s.pitchSearched .first).setP1 (cfg.p1Enc lag f)).setWindow_holds lag
  have hwindow := ((s.pitchSearched .first).setP1 (cfg.p1Enc lag f)).setWindow_regsKept lag cfg
  refine ⟨State.prmHolds_of_regsKept hwindow (by simp [wholly]) hp1,
    State.prmHolds_of_regsKept hwindow (by simp [wholly]) hparity, hmin, hmax, ?frame⟩
  case frame =>
    refine (((s.pitchSearched_regsKept .first).mono fun reg i h => .inl ?_).trans
      ((State.setP1_regsKept _ _).mono fun reg i h => .inr h)).trans (hwindow.mono fun reg i h => .inl ?_)
    · simp only [wholly, List.mem_cons] at h ⊢
      tauto
    · simp only [wholly, List.mem_cons] at h ⊢
      tauto

/-- The same of subframe 1. -/
theorem pitCl_second_leaves {lag f : Int} (hlag : clLag cfg .second s = lag) (hf : clFrac cfg .second s lag = f)
    (hcode : cfg.p2Enc lag f (clLow s .second) < 2 ^ 5) : let t := pitCl cfg .second s
    t.prmHolds 10 (cfg.p2Enc lag f (clLow s .second))
      ∧ regsKept (fun reg i => wholly [.t0, .t0f, .acv] reg i ∨ part .prm 10 1 reg i) s t := by
  simp only [pitCl_second, hlag, hf]
  exact ⟨State.prmHolds_setFrom _ (by norm_num) (hcode.trans (by norm_num)),
    ((s.pitchSearched_regsKept .second).mono fun _ _ h => .inl h).trans
      ((setFrom_regsKept _ _ _ _ _).mono fun _ _ h => .inr h)⟩

end

/-- Settles O24: the lag is the first of the best in a window inside R188's lags, so that its codewords fit
and the interpolation runs on it. -/
theorem pitClSearches : Obligations.PitClSearches := by
  intro s sf hs hwin lo hi d corr vec fcorr
  replace hs : s.ready .e (pitClNeeds sf) = true := by cases sf <;> exact hs
  have hlow : lo = clLow s sf := by cases sf <;> rfl
  have hhigh : hi = clHigh s sf := by cases sf <;> rfl
  obtain ⟨lag, hlag⟩ : ∃ lag, clLag cfg sf s = lag := ⟨_, rfl⟩
  obtain ⟨f, hf⟩ : ∃ f, clFrac cfg sf s lag = f := ⟨_, rfl⟩
  have hsearch := clLag_spec hwin
  have hfrac := clFrac_spec s sf lag
  have hbounds := clFrac_bounds s sf lag
  simp only [lagScore_backFiltered, hlag, ← hlow, ← hhigh] at hsearch
  simp only [fracScore_backFiltered, hf] at hfrac hbounds
  obtain ⟨hlo20, -, hhi143⟩ := clWindow_bounds hwin
  obtain ⟨⟨hlo, hhi⟩, hbest, hfirst⟩ := hsearch
  obtain ⟨hflo, hfhi⟩ := hbounds
  have hlag20 : 20 ≤ lag := by omega
  have hlag143 : lag ≤ 143 := by omega
  have hsearched : s.pitchSearched sf = s.setPitch lag f (interp cfg s.bufs sf lag f) := by
    rw [State.pitchSearched, hlag, hf]
  have hholds {reg : Reg} {i : Nat} {v : Int} (hprm : reg ≠ .prm) (hmin : reg ≠ .t0min) (hmax : reg ≠ .t0max)
      (h : (s.setPitch lag f (interp cfg s.bufs sf lag f)).holds reg i v) : (pitCl cfg sf s).holds reg i v :=
    holds_pitCl hprm hmin hmax (hsearched ▸ h)
  obtain ⟨hcontrol, hchannel, hbufs⟩ := pitCl_control s sf
  refine ⟨pitCl cfg sf s, lag, f, exec_pitCl hs hwin,
    hholds (by decide) (by decide) (by decide) (s.setPitch_holds_t0 _ (by omega) (by omega)),
    hholds (by decide) (by decide) (by decide) (s.setPitch_holds_t0f _ hflo hfhi),
    fun n hn => hholds (by decide) (by decide) (by decide) (s.setPitch_holds_acv _ hn),
    interpolated_pitchVec s sf hflo hfhi (interpRuns_of_lag sf (by omega) (by omega)).1, hlo, hhi, hlag20, hlag143,
    hbest, hfirst, hfrac, ?subframe0, ?subframe1, hcontrol, hchannel, hbufs⟩
  case subframe0 =>
    rintro rfl
    have hwhole : 84 < lag → f = 0 := fun h => by
      rcases hfrac with ⟨-, -, hzero⟩ | ⟨hshort, -⟩
      · exact hzero
      · exact absurd ⟨rfl, h⟩ hshort
    exact pitCl_first_leaves hlag hf (p1Dec_p1Enc hlag20 hlag143 hflo hfhi hwhole).2
  case subframe1 =>
    rintro rfl
    exact pitCl_second_leaves hlag hf (p2Dec_p2Enc hlo hhi hflo hfhi).2

end Sys2Proof.Machine

/-! # O30 to O35: the fixed-codebook unit

The convolution, the sharpening and the decoder come first (O35, O33, O34). Then the energy of pulses as a
sum of squares (O32), on which the search rests: pulses without energy have no correlation, so that no
candidate of energy 0 is ever taken. The search itself is one search for the best ratio (`bestOf`), over the
pairs of a phase and over the passes. -/

namespace Sys2Proof.Machine

-- One proof at a time: proofs elaborated side by side each hold a thread and its stack (as in the tests).
set_option Elab.async false

/-! ## FCB.CONV (R218) -/

theorem exec_fcbConv {s : State} (hs : s.ready .ed [.all .fcv, .all .h] = true) :
    exec .fcbConv s = .next (setZ cfg s) :=
  checked_of_ready hs rfl

theorem State.setZ_holds (s : State) {n : Nat} (hn : n < 40) :
    (setZ cfg s).holds .z n (narrow16 (((∑ i ∈ Finset.range (n + 1),
      s.regs.int .fcv i * s.regs.int .h (n - i) : Int) : Rat) * 2 ^ cfg.qZ / 2 ^ (cfg.qFcv + cfg.qH))) :=
  s.holds_setAll hn (by rw [convSample, toInt_sat16_rnd, convSum_eq_sum])

/-- Settles O35: one register is written, with the narrowed convolution sums. -/
theorem fcbConvFilters : Obligations.FcbConvFilters := fun s hs =>
  ⟨setZ cfg s, exec_fcbConv hs, fun _ hn => s.setZ_holds hn, (WritesOnly.refl _ s).setAll (by simp)⟩

/-! ## The sharpening in place (R222) -/

section
variable (c : Config) (v : Nat → Int) {lag : Nat} (beta : Int) {n : Nat}

/-- The recurrence of R222 on the sharpened vector itself. -/
theorem sharpen_getD (hlag : 0 < lag) (hn : n < 40) : (sharpen c v lag beta).getD n 0
    = if lag ≤ n then
        (sat16 (v n + shrR (beta * (sharpen c v lag beta).getD (n - lag) 0) c.qGp)).toInt
      else v n := by
  rw [sharpen, gen_getD _ hn]
  by_cases hle : lag ≤ n
  · rw [if_pos ⟨by omega, hle⟩, if_pos hle, gen_getD_of_lt _ (by omega) hn.le]
  · rw [if_neg fun h => hle h.2, if_neg hle]

/-- Words sharpened are words. -/
theorem sat16_sharpen (hlag : 0 < lag) (hn : n < 40) (hv : -32768 ≤ v n ∧ v n ≤ 32767) :
    (sat16 ((sharpen c v lag beta).getD n 0)).toInt = (sharpen c v lag beta).getD n 0 := by
  rw [sharpen_getD c v beta hlag hn]
  split
  case isTrue => rw [sat16_of_toInt]
  case isFalse => exact toInt_sat16_of_bounds hv.1 hv.2

end

/-! ## The code vector (R210, R216, R220) -/

theorem pulseAmp_bounds (b : Bool) : -32768 ≤ pulseAmp cfg b ∧ pulseAmp cfg b ≤ 32767 := by
  cases b <;> decide

theorem pulseVector_bounds (p : Pulses) (n : Nat) :
    -32768 ≤ pulseVector cfg p n ∧ pulseVector cfg p n ≤ 32767 := by
  unfold pulseVector
  split_ifs
  iterate 4 exact pulseAmp_bounds _
  norm_num

/-- The code vector satisfies the recurrence of R222, with the narrowing of R118. -/
theorem toInt_codeVector (p : Pulses) {lag n : Nat} (beta : Int) (hlag : 0 < lag) (hn : n < 40) :
    (codeVector cfg p lag beta n).toInt = if lag ≤ n then
        narrow16 ((pulseVector cfg p n
          + ⌊(beta * (codeVector cfg p lag beta (n - lag)).toInt : Rat) / 2 ^ cfg.qGp + 1 / 2⌋ : Int) : Rat)
      else pulseVector cfg p n := by
  have hword {k : Nat} (hk : k < 40) :
      (codeVector cfg p lag beta k).toInt = (sharpen cfg (pulseVector cfg p) lag beta).getD k 0 :=
    sat16_sharpen cfg _ beta hlag hk (pulseVector_bounds p k)
  rw [hword hn, sharpen_getD cfg _ beta hlag hn, hword (by omega), narrow16_intCast, shrR_eq_rnd, rnd_eq_floor,
    Int.cast_mul]

/-- The positions of decoded pulses are on their tracks (R217). -/
theorem fcbDecode_tracks (c s : Nat) : let p := cfg.fcbDecode c s
    p.m0 % 5 = 0 ∧ p.m1 % 5 = 1 ∧ p.m2 % 5 = 2 ∧ 3 ≤ p.m3 % 5 := by
  show c % 8 * 5 % 5 = 0 ∧ (c / 8 % 8 * 5 + 1) % 5 = 1 ∧ (c / 64 % 8 * 5 + 2) % 5 = 2
    ∧ 3 ≤ (c / 1024 % 8 * 5 + 3 + c / 512 % 2) % 5
  omega

/-- Of pulses on different tracks no two stand at one position, and the code vector is their sum. -/
theorem pulseVector_eq_add {p : Pulses} (h0 : p.m0 % 5 = 0) (h1 : p.m1 % 5 = 1) (h2 : p.m2 % 5 = 2)
    (h3 : 3 ≤ p.m3 % 5) (n : Nat) : pulseVector cfg p n
      = (if n = p.m0 then pulseAmp cfg p.p0 else 0) + (if n = p.m1 then pulseAmp cfg p.p1 else 0)
        + (if n = p.m2 then pulseAmp cfg p.p2 else 0) + (if n = p.m3 then pulseAmp cfg p.p3 else 0) := by
  unfold pulseVector
  split_ifs <;> omega

/-! ## FCB.DEC (R219 to R221) -/

theorem lagInRange_iff (rs : Regs) : rs.lagInRange = true ↔ 19 ≤ rs.int .t0 0 ∧ rs.int .t0 0 ≤ 144 :=
  decide_eq_true_iff

section
variable {s : State} {sf : Subframe}

theorem fcvOfCodewords_holds (s : State) (cw sw : Nat) {n : Nat} (hn : n < 40) :
    (fcvOfCodewords cfg s cw sw).holds .fcv n
      (codeVector cfg (cfg.fcbDecode cw sw) s.regs.lag s.dec.gpBnd.toInt n).toInt :=
  s.holds_setAll hn rfl

theorem fcvOfCodewords_writesOnly (s : State) (cw sw : Nat) : WritesOnly [.fcv] s (fcvOfCodewords cfg s cw sw) :=
  (WritesOnly.refl _ s).setAll (by simp)

theorem exec_fcbDec_of_good (hs : s.ready .d [.all .t0, needPrm (6 + 5 * sf.idx) 2] = true) (hbfi : s.bfi = false)
    (hlag : 19 ≤ s.regs.int .t0 0 ∧ s.regs.int .t0 0 ≤ 144) (hc : s.regs.nat .prm (6 + 5 * sf.idx) < 2 ^ 13)
    (hsgn : s.regs.nat .prm (7 + 5 * sf.idx) < 2 ^ 4) :
    exec (.fcbDec sf) s = .next (fcvOfCodewords cfg s (s.regs.nat .prm (6 + 5 * sf.idx))
      (s.regs.nat .prm (7 + 5 * sf.idx))) := by
  have hwidth : prmWidth (6 + 5 * sf.idx) = 13 ∧ prmWidth (7 + 5 * sf.idx) = 4 := by cases sf <;> decide
  have hready : s.ready .d (fcbDecNeeds sf s) = true := by rwa [fcbDecNeeds, hbfi, if_neg Bool.false_ne_true]
  have hrange : fcbDecInRange sf s = true := by
    rw [fcbDecInRange, hbfi, (lagInRange_iff _).mpr hlag, Regs.prmInRange, Regs.prmInRange, hwidth.1, hwidth.2,
      decide_eq_true hc, decide_eq_true hsgn]
    rfl
  have heffect : fcbDec cfg sf s = fcvOfCodewords cfg s (s.regs.nat .prm (6 + 5 * sf.idx))
      (s.regs.nat .prm (7 + 5 * sf.idx)) := by rw [fcbDec, hbfi, if_neg Bool.false_ne_true]
  exact (checked_of_ready hready hrange).trans (congrArg Host.Outcome.next heffect)

/-- Settles O33: the pulses of a decoded codeword are on different tracks, so that the vector sharpened is
their sum. -/
theorem fcbDecGoodFrame : Obligations.FcbDecGoodFrame := by
  intro s sf hs hbfi hlo hhi hc hsgn p lag pulse c
  obtain ⟨h0, h1, h2, h3⟩ : p.m0 % 5 = 0 ∧ p.m1 % 5 = 1 ∧ p.m2 % 5 = 2 ∧ 3 ≤ p.m3 % 5 := fcbDecode_tracks _ _
  have hpulses (n : Nat) : pulseVector cfg p n = c n := pulseVector_eq_add h0 h1 h2 h3 n
  have hlag : 0 < lag := by omega
  refine ⟨_, fun n => (codeVector cfg p lag s.dec.gpBnd.toInt n).toInt,
    exec_fcbDec_of_good hs hbfi ⟨hlo, hhi⟩ hc hsgn, fun n hn => fcvOfCodewords_holds s _ _ hn, fun n hn => ?_,
    fcvOfCodewords_writesOnly s _ _⟩
  rw [← hpulses n]
  exact toInt_codeVector p _ hlag hn

/-- What an erased frame leaves, by the two seeds drawn (R221). -/
def State.fcbDrawn (s : State) (seed1 seed2 : BitVec 16) : State :=
  let t := fcvOfCodewords cfg s (seed1.toNat % 2 ^ 13) (seed2.toNat % 2 ^ 4)
  ({ t with dec := { t.dec with seed := seed2 } } : State).raiseFlag .conceal true

theorem exec_fcbDec_of_erased (hs : s.ready .d [.all .t0] = true) (hbfi : s.bfi = true)
    (hlag : 19 ≤ s.regs.int .t0 0 ∧ s.regs.int .t0 0 ≤ 144) :
    exec (.fcbDec sf) s = .next (s.fcbDrawn (cfg.prng s.dec.seed) (cfg.prng (cfg.prng s.dec.seed))) := by
  have hready : s.ready .d (fcbDecNeeds sf s) = true := by rwa [fcbDecNeeds, hbfi, if_pos rfl]
  have hrange : fcbDecInRange sf s = true := by
    rw [fcbDecInRange, hbfi, (lagInRange_iff _).mpr hlag]
    rfl
  have heffect : fcbDec cfg sf s = s.fcbDrawn (cfg.prng s.dec.seed) (cfg.prng (cfg.prng s.dec.seed)) := by
    rw [fcbDec, hbfi, if_pos rfl, State.fcbDrawn]
    simp only [BitVec.extractLsb'_toNat, Nat.shiftRight_zero]
  exact (checked_of_ready hready hrange).trans (congrArg Host.Outcome.next heffect)

theorem State.fcbDrawn_holds (s : State) (seed1 seed2 : BitVec 16) {n : Nat} (hn : n < 40) :
    (s.fcbDrawn seed1 seed2).holds .fcv n (codeVector cfg
      (cfg.fcbDecode (seed1.toNat % 2 ^ 13) (seed2.toNat % 2 ^ 4)) s.regs.lag s.dec.gpBnd.toInt n).toInt :=
  State.holds_raiseFlag.mpr (fcvOfCodewords_holds s _ _ hn)

theorem State.fcbDrawn_frame (s : State) (seed1 seed2 : BitVec 16) : let t := s.fcbDrawn seed1 seed2
    t.dec = { s.dec with seed := seed2 } ∧ t.enc = s.enc ∧ t.flag .conceal = true ∧ controlKeptBut .conceal s t
      ∧ regsKept (wholly [.fcv]) s t ∧ bufsKept nowhere s t := by
  obtain ⟨hflag, hcontrol, -, hregs, hbufs⟩ := (fcvOfCodewords_writesOnly s (seed1.toNat % 2 ^ 13)
    (seed2.toNat % 2 ^ 4)).raiseFlag .conceal true
  rw [Bool.or_true] at hflag
  exact ⟨rfl, rfl, hflag, hcontrol, hregs, hbufs⟩

end

theorem toNat_prng (seed : BitVec 16) : (cfg.prng seed).toNat = (seed.toNat * 31821 + 13849) % 2 ^ 16 := by
  show (seed * 31821 + 13849).toNat = _
  rw [BitVec.toNat_add, BitVec.toNat_mul]
  simp

/-- Settles O34: the two codewords are bits of the two seeds, and the decoder makes of them what it makes of
received ones. -/
theorem fcbDecErasedFrame : Obligations.FcbDecErasedFrame := by
  intro s sf hs hbfi hlo hhi seed1 seed2
  have hseed1 : (cfg.prng s.dec.seed).toNat = seed1 := toNat_prng _
  have hseed2 : (cfg.prng (cfg.prng s.dec.seed)).toNat = seed2 := by rw [toNat_prng, hseed1]
  obtain ⟨hdec, henc, hframe⟩ := s.fcbDrawn_frame (cfg.prng s.dec.seed) (cfg.prng (cfg.prng s.dec.seed))
  have hvector (n : Nat) (hn : n < 40) :=
    s.fcbDrawn_holds (cfg.prng s.dec.seed) (cfg.prng (cfg.prng s.dec.seed)) hn
  rw [hseed1, hseed2] at hvector
  exact ⟨_, exec_fcbDec_of_erased hs hbfi ⟨hlo, hhi⟩, hvector, by rw [hdec, hseed2], by rw [hdec], henc, hframe⟩

/-! ## The criterion (R212, R213) -/

/-- `Cq` of a set of pulses: the sum of their correlations (R213). -/
def PulseTable.corrOf (t : PulseTable) (m : List Nat) : Int := (m.map t.corr).sum

/-- `Eq` of a set of pulses: their products, in every order (R213). -/
def PulseTable.energyOf (t : PulseTable) (m : List Nat) : Int := (m.map fun i => (m.map (t.energy i)).sum).sum

/-- `s[n]` as a number, by the correlation `d` (R212 (d)). -/
def pulseSign (d : Nat → Int) (n : Nat) : Int := if 0 ≤ d n then 1 else -1

/-- What a pulse at `i` adds to sample `n` of the filtered vector. -/
def pulseShape (d hs : Nat → Int) (n i : Nat) : Int := if i ≤ n then pulseSign d i * hs (n - i) else 0

section
variable (x2 hs : List Int)

theorem fcbCorr_eq_sum (n : Nat) :
    fcbCorr x2 hs n = ∑ i ∈ Finset.range (40 - n), x2.getD (n + i) 0 * hs.getD i 0 := sumN_eq_sum _ _

theorem fcbCorr_of_le {n : Nat} (hn : 40 ≤ n) : fcbCorr x2 hs n = 0 := by
  rw [fcbCorr_eq_sum, Nat.sub_eq_zero_of_le hn, Finset.sum_range_zero]

/-- The table of the correlations reads as they do, beyond its end too. -/
theorem corrTable_getD (n : Nat) : (tabFrom (fcbCorr x2 hs) 0 40).getD n 0 = fcbCorr x2 hs n := by
  rw [tabFrom_getD, Nat.zero_add]
  split
  case isTrue => rfl
  case isFalse h => rw [fcbCorr_of_le x2 hs (not_lt.mp h)]

theorem pulseTable_corr (n : Nat) : (pulseTable x2 hs).corr n = |fcbCorr x2 hs n| := by
  rw [← corrTable_getD, PulseTable.corr, pulseTable]
  simp only [List.getD_eq_getElem?_getD, List.getElem?_map]
  cases (tabFrom (fcbCorr x2 hs) 0 40)[n]? <;> simp

theorem pulseTable_pos {n : Nat} (hn : n < 40) :
    (pulseTable x2 hs).pos.getD n true = decide (0 ≤ fcbCorr x2 hs n) := by
  simp only [pulseTable, List.getD_eq_getElem?_getD, List.getElem?_map, tabFrom_getElem?, if_pos hn, Nat.zero_add,
    Option.map_some, Option.getD_some]

/-- `phi(i, j)` is the sum of the products of the two shifted responses, from the later position on. -/
theorem fcbPhi_eq_sum (i j : Nat) : fcbPhi hs (min i j) (max i j)
    = ∑ n ∈ Finset.Ico (max i j) 40, hs.getD (n - i) 0 * hs.getD (n - j) 0 := by
  rw [fcbPhi, sumN_eq_sum, Finset.sum_Ico_eq_sum_range]
  refine Finset.sum_congr rfl fun n _ => ?_
  rcases le_total i j with h | h
  · rw [min_eq_left h, max_eq_right h, Nat.add_comm n j, Nat.add_sub_cancel_left]
  · rw [min_eq_right h, max_eq_left h, Nat.add_comm n i, Nat.add_sub_cancel_left, mul_comm]

/-- R212 (e): the signed product of two pulses. -/
theorem pulseTable_energy (i j : Nat) : (pulseTable x2 hs).energy i j
    = pulseSign (fcbCorr x2 hs) i * pulseSign (fcbCorr x2 hs) j
      * ∑ n ∈ Finset.Ico (max i j) 40, hs.getD (n - i) 0 * hs.getD (n - j) 0 := by
  rw [PulseTable.energy, pulseTable, ← fcbPhi_eq_sum]
  simp only [corrTable_getD, pulseSign]
  by_cases hi : i < 40
  · by_cases hj : j < 40
    · rw [tabFrom_getD, if_pos hi, tabFrom_getD, if_pos hj, Nat.zero_add, Nat.zero_add]
    · rw [tabFrom_getD, if_pos hi, tabFrom_getD, if_neg hj, fcbPhi, Nat.sub_eq_zero_of_le (by omega), sumN, mul_zero]
  · rw [tabFrom_getD, if_neg hi, List.getD_nil, fcbPhi, Nat.sub_eq_zero_of_le (by omega), sumN, mul_zero]

/-- The product of two pulses is that of the shapes they give the filtered vector. -/
theorem pulseTable_energy_eq_shapes (i j : Nat) : (pulseTable x2 hs).energy i j
    = ∑ n ∈ Finset.range 40, pulseShape (fcbCorr x2 hs) (hs.getD · 0) n i
        * pulseShape (fcbCorr x2 hs) (hs.getD · 0) n j := by
  have hafter : Finset.Ico (max i j) 40 = {n ∈ Finset.range 40 | i ≤ n ∧ j ≤ n} := by
    ext n
    simp only [Finset.mem_Ico, Finset.mem_filter, Finset.mem_range]
    omega
  rw [pulseTable_energy, hafter, Finset.mul_sum, Finset.sum_filter]
  refine Finset.sum_congr rfl fun n _ => ?_
  unfold pulseShape
  by_cases hi : i ≤ n
  · by_cases hj : j ≤ n
    · rw [if_pos ⟨hi, hj⟩, if_pos hi, if_pos hj]
      ring
    · rw [if_neg fun h => hj h.2, if_neg hj, mul_zero]
  · rw [if_neg fun h => hi h.1, if_neg hi, zero_mul]

end

theorem sum_map_finsetSum {α ι : Type} (l : List α) (s : Finset ι) (f : α → ι → Int) :
    (l.map fun a => ∑ i ∈ s, f a i).sum = ∑ i ∈ s, (l.map fun a => f a i).sum := by
  simpa using Multiset.sum_map_sum (m := (l : Multiset α)) (s := s) (f := f)

/-- R213: the energy of pulses is that of the filtered vector they give, a sum of squares. -/
theorem energyOf_eq_sum_sq (x2 hs : List Int) (m : List Nat) : (pulseTable x2 hs).energyOf m
    = ∑ n ∈ Finset.range 40, ((m.map (pulseShape (fcbCorr x2 hs) (hs.getD · 0) n)).sum) ^ 2 := by
  have hrow (i : Nat) : (m.map ((pulseTable x2 hs).energy i)).sum = ∑ n ∈ Finset.range 40,
      pulseShape (fcbCorr x2 hs) (hs.getD · 0) n i
        * (m.map (pulseShape (fcbCorr x2 hs) (hs.getD · 0) n)).sum := by
    rw [funext (pulseTable_energy_eq_shapes x2 hs i), sum_map_finsetSum]
    simp only [List.sum_map_mul_left]
  rw [PulseTable.energyOf, funext hrow, sum_map_finsetSum]
  simp only [List.sum_map_mul_right, sq]

theorem energyOf_nonneg (x2 hs : List Int) (m : List Nat) : 0 ≤ (pulseTable x2 hs).energyOf m := by
  rw [energyOf_eq_sum_sq]
  exact Finset.sum_nonneg fun n _ => sq_nonneg _

/-- Settles O32: the energy is a sum of squares, wherever the pulses stand. -/
theorem pulseEnergyNonneg : Obligations.PulseEnergyNonneg := fun x2 hs ms _ => energyOf_nonneg x2 hs ms

/-! ### Pulses without energy

Where the filtered vector of some pulses is zero, so is the response, sample by sample: the pulse at the first
position is the only one that its sample `k` and the samples before it make. -/

theorem response_eq_zero {d hs : Nat → Int} {m : Finset Nat} {first : Nat} (hmem : first ∈ m)
    (hfirst : ∀ i ∈ m, first ≤ i) (hzero : ∀ n < 40, ∑ i ∈ m, pulseShape d hs n i = 0) {k : Nat}
    (hk : k < 40 - first) : hs k = 0 := by
  induction k using Nat.strong_induction_on with
  | _ k ih =>
    have halone : ∑ i ∈ m, pulseShape d hs (first + k) i = pulseShape d hs (first + k) first := by
      refine Finset.sum_eq_single_of_mem first hmem fun i hi hne => ?_
      have hlater : first < i := lt_of_le_of_ne (hfirst i hi) (Ne.symm hne)
      unfold pulseShape
      split
      case isTrue => rw [ih (first + k - i) (by omega) (by omega), mul_zero]
      case isFalse => rfl
    have hsign : pulseSign d first ≠ 0 := by
      unfold pulseSign
      split <;> decide
    have hproduct := hzero (first + k) (by omega)
    rw [halone, pulseShape, if_pos (Nat.le_add_right _ _), Nat.add_sub_cancel_left] at hproduct
    exact (mul_eq_zero.mp hproduct).resolve_left hsign

/-- Pulses without energy leave no correlation from any of their positions on. -/
theorem fcbCorr_eq_zero_of_energyOf (x2 hs : List Int) {m : List Nat} (hnodup : m.Nodup)
    (henergy : (pulseTable x2 hs).energyOf m = 0) {i n : Nat} (hi : i ∈ m) (hn : i ≤ n) : fcbCorr x2 hs n = 0 := by
  rw [energyOf_eq_sum_sq, Finset.sum_eq_zero_iff_of_nonneg fun n _ => sq_nonneg _] at henergy
  have hzero (n : Nat) (hn : n < 40) :
      ∑ i ∈ m.toFinset, pulseShape (fcbCorr x2 hs) (hs.getD · 0) n i = 0 := by
    rw [List.sum_toFinset _ hnodup]
    exact pow_eq_zero_iff two_ne_zero |>.mp (henergy n (Finset.mem_range.mpr hn))
  obtain ⟨first, hmem, hfirst⟩ := m.toFinset.exists_min_image id ⟨i, List.mem_toFinset.mpr hi⟩
  have hle : first ≤ i := hfirst i (List.mem_toFinset.mpr hi)
  rw [fcbCorr_eq_sum]
  refine Finset.sum_eq_zero fun k hk => ?_
  have hk : k < 40 - n := Finset.mem_range.mp hk
  have hresponse : hs.getD k 0 = 0 := response_eq_zero hmem hfirst hzero (by omega)
  rw [hresponse, mul_zero]

/-- What the search rests on, of a table of correlations and products: they are those of real vectors. -/
structure PulseTable.Sound (t : PulseTable) : Prop where
  corr_nonneg : ∀ n, 0 ≤ t.corr n
  energy_comm : ∀ i j, t.energy i j = t.energy j i
  energyOf_nonneg : ∀ m, 0 ≤ t.energyOf m
  corr_eq_zero : ∀ m, m.Nodup → t.energyOf m = 0 → ∀ i ∈ m, ∀ n, i ≤ n → t.corr n = 0

theorem pulseTable_sound (x2 hs : List Int) : (pulseTable x2 hs).Sound where
  corr_nonneg n := by
    rw [pulseTable_corr]
    exact abs_nonneg _
  energy_comm i j := by
    rw [pulseTable_energy_eq_shapes, pulseTable_energy_eq_shapes]
    exact Finset.sum_congr rfl fun n _ => mul_comm _ _
  energyOf_nonneg := energyOf_nonneg x2 hs
  corr_eq_zero m hnodup henergy i hi n hn := by
    rw [pulseTable_corr, fcbCorr_eq_zero_of_energyOf x2 hs hnodup henergy hi hn, abs_zero]

theorem PulseTable.Sound.corrOf_eq_zero {t : PulseTable} (ht : t.Sound) {m : List Nat} (hnodup : m.Nodup)
    (henergy : t.energyOf m = 0) : t.corrOf m = 0 := by
  refine List.sum_eq_zero fun c hc => ?_
  obtain ⟨i, hi, rfl⟩ := List.mem_map.mp hc
  exact ht.corr_eq_zero m hnodup henergy i hi i le_rfl

/-! ## The search for the best ratio (R121, R215) -/

/-- A maximising search returns the first of the greatest. -/
theorem firstMax_argMax {α : Type} (score : α → Int) (d : α) {l : List α} (h : l ≠ []) :
    firstMax score l (argMax score d l) := by
  obtain ⟨before, after, hsplit, hbefore⟩ := argMax_first score d h
  refine ⟨before, after, hsplit, hbefore, fun y hy => le_argMax score d ?_⟩
  rw [hsplit]
  exact List.mem_append_right _ (List.mem_cons_of_mem _ hy)

theorem firstMax_mem {α : Type} {score : α → Int} {l : List α} {x : α} (h : firstMax score l x) : x ∈ l := by
  obtain ⟨before, after, rfl, -⟩ := h
  exact List.mem_append_right _ List.mem_cons_self

section
variable {α β : Type} (corr energy : α → Int)

/-- The ratio kept with the best candidate so far; -1/1 where none is kept (R214). -/
def keptRatio : Option α → Int × Int
  | none => (-1, 1)
  | some x => (corr x * corr x, energy x)

/-- One candidate compared with the best so far (R215). -/
def keepBest (best : Option α) (y : α) : Option α :=
  if better (corr y) (energy y) (keptRatio corr energy best).1 (keptRatio corr energy best).2 then some y else best

/-- The candidate a search for the best ratio keeps. -/
def bestOf (l : List α) : Option α := l.foldl (keepBest corr energy) none

/-- A fold that keeps the best of the candidates its elements stand for, in a form of its own. -/
theorem foldl_eq_bestOf {γ σ : Type} (view : Option α → σ) (candidate : γ → α) {step : σ → γ → σ} (l : List γ)
    (h : ∀ p ∈ l, ∀ best, step (view best) p = view (keepBest corr energy best (candidate p))) :
    l.foldl step (view none) = view (bestOf corr energy (l.map candidate)) := by
  unfold bestOf
  generalize none = best
  induction l generalizing best with
  | nil => rfl
  | cons p l ih =>
    rw [List.foldl_cons, h p List.mem_cons_self, List.map_cons, List.foldl_cons]
    exact ih (fun p' hp' => h p' (List.mem_cons_of_mem _ hp')) _

theorem bestOf_append_singleton (l : List α) (y : α) :
    bestOf corr energy (l ++ [y]) = keepBest corr energy (bestOf corr energy l) y := by
  rw [bestOf, List.foldl_append, bestOf, List.foldl_cons, List.foldl_nil]

variable {corr energy}

theorem firstBest_mem {l : List α} {x : α} (h : firstBest corr energy l x) : x ∈ l := by
  obtain ⟨before, after, rfl, -⟩ := h
  exact List.mem_append_right _ List.mem_cons_self

theorem firstBest_energy_pos {l : List α} {x : α} (h : firstBest corr energy l x) : 0 < energy x := by
  obtain ⟨-, -, -, hpos, -⟩ := h
  exact hpos

theorem firstBest_map {f : β → α} {l : List β} {x : β} (h : firstBest (corr ∘ f) (energy ∘ f) l x) :
    firstBest corr energy (l.map f) (f x) := by
  obtain ⟨before, after, rfl, hpos, hbefore, hafter⟩ := h
  refine ⟨before.map f, after.map f, by simp, hpos, ?_, ?_⟩
  · simpa using hbefore
  · simpa using hafter

/-- No candidate has a greater ratio than the first best. -/
theorem firstBest_le {l : List α} {x y : α} (h : firstBest corr energy l x) (hy : y ∈ l) (hpos : 0 < energy y) :
    corr y * corr y * energy x ≤ corr x * corr x * energy y := by
  obtain ⟨before, after, rfl, -, hbefore, hafter⟩ := h
  rcases List.mem_append.mp hy with hy | hy
  · exact (hbefore y hy hpos).le
  · rcases List.mem_cons.mp hy with rfl | hy
    · exact le_rfl
    · exact hafter y hy

/-- A candidate beyond the first best of those before it is the first best of all. -/
theorem firstBest_of_better {l : List α} {x y : α} (h : firstBest corr energy l x) (hpos : 0 < energy y)
    (hbetter : corr x * corr x * energy y < corr y * corr y * energy x) :
    firstBest corr energy (l ++ [y]) y := by
  have hx := firstBest_energy_pos h
  refine ⟨l, [], rfl, hpos, fun z hz hzpos => ?_, by simp⟩
  refine lt_of_mul_lt_mul_right ?_ hx.le
  calc corr z * corr z * energy y * energy x
      = corr z * corr z * energy x * energy y := by ring
    _ ≤ corr x * corr x * energy z * energy y := mul_le_mul_of_nonneg_right (firstBest_le h hz hzpos) hpos.le
    _ = corr x * corr x * energy y * energy z := by ring
    _ < corr y * corr y * energy x * energy z := mul_lt_mul_of_pos_right hbetter hzpos
    _ = corr y * corr y * energy z * energy x := by ring

theorem firstBest_of_not_better {l : List α} {x y : α} (h : firstBest corr energy l x)
    (hle : corr y * corr y * energy x ≤ corr x * corr x * energy y) : firstBest corr energy (l ++ [y]) x := by
  obtain ⟨before, after, rfl, hpos, hbefore, hafter⟩ := h
  refine ⟨before, after ++ [y], by simp, hpos, hbefore, fun z hz => ?_⟩
  rcases List.mem_append.mp hz with hz | hz
  · exact hafter z hz
  · rwa [List.mem_singleton.mp hz]

/-- A candidate without correlation and energy is never taken. -/
theorem keepBest_of_zero (best : Option α) {y : α} (hcorr : corr y = 0) (henergy : energy y = 0) :
    keepBest corr energy best y = best := by
  simp [keepBest, better, hcorr, henergy]

/-- What the search returns, where a candidate without energy has no correlation: the first best candidate of
positive energy, or nothing where there is none. -/
theorem bestOf_spec (l : List α) (hnonneg : ∀ y ∈ l, 0 ≤ energy y) (hzero : ∀ y ∈ l, energy y = 0 → corr y = 0) :
    (bestOf corr energy l = none ∧ ∀ y ∈ l, energy y = 0)
      ∨ ∃ x, bestOf corr energy l = some x ∧ firstBest corr energy l x := by
  induction l using List.reverseRecOn with
  | nil => exact .inl ⟨rfl, by simp⟩
  | append_singleton l y ih =>
    have hl {z : α} (hz : z ∈ l) : z ∈ l ++ [y] := List.mem_append_left _ hz
    have hy : y ∈ l ++ [y] := List.mem_append_right _ (List.mem_singleton_self y)
    have ih := ih (fun z hz => hnonneg z (hl hz)) fun z hz => hzero z (hl hz)
    rw [bestOf_append_singleton]
    rcases (hnonneg y hy).eq_or_lt with hnone | hpos
    · rw [keepBest_of_zero _ (hzero y hy hnone.symm) hnone.symm]
      rcases ih with ⟨hbest, hall⟩ | ⟨x, hbest, hx⟩
      · refine .inl ⟨hbest, fun z hz => ?_⟩
        rcases List.mem_append.mp hz with hz | hz
        · exact hall z hz
        · rw [List.mem_singleton.mp hz, ← hnone]
      · refine .inr ⟨x, hbest, firstBest_of_not_better hx ?_⟩
        rw [hzero y hy hnone.symm, ← hnone]
        simp
    · rcases ih with ⟨hbest, hall⟩ | ⟨x, hbest, hx⟩
      · refine .inr ⟨y, ?_, l, [], rfl, hpos, fun z hz hzpos => absurd (hall z hz) hzpos.ne', by simp⟩
        have hsq := mul_self_nonneg (corr y)
        have hbetter : better (corr y) (energy y) (-1) 1 = true := decide_eq_true (by linarith)
        rw [hbest, keepBest, keptRatio, if_pos hbetter]
      · by_cases hbetter : better (corr y) (energy y) (corr x * corr x) (energy x) = true
        · refine .inr ⟨y, ?_, firstBest_of_better hx hpos (sub_pos.mp (of_decide_eq_true hbetter))⟩
          rw [hbest, keepBest, keptRatio, if_pos hbetter]
        · refine .inr ⟨x, ?_, firstBest_of_not_better hx (sub_nonpos.mp ?_)⟩
          · rw [hbest, keepBest, keptRatio, if_neg hbetter]
          · exact not_lt.mp fun h => hbetter (decide_eq_true h)

end

/-! ## The tracks (R210) -/

theorem mem_trackPos {u j : Nat} (hu : u < 5) : j ∈ trackPos u ↔ j < 40 ∧ j % 5 = u := by
  rw [trackPos, mem_tabFrom]
  constructor
  · rintro ⟨i, hi, rfl⟩
    omega
  · rintro ⟨hj, hmod⟩
    exact ⟨j / 5, by omega, by omega⟩

theorem self_mem_trackPos (u : Nat) : u ∈ trackPos u := List.mem_cons_self

theorem filter_trackPos_ne_nil (u i : Nat) : ((trackPos u).filter fun j => j ≠ i) ≠ [] := by
  have hother : ∃ j ∈ trackPos u, j ≠ i := by
    by_cases hi : u = i
    · exact ⟨u + 5, List.mem_cons_of_mem _ List.mem_cons_self, by omega⟩
    · exact ⟨u, self_mem_trackPos u, hi⟩
  obtain ⟨j, hj, hne⟩ := hother
  exact List.ne_nil_of_mem (List.mem_filter.mpr ⟨hj, decide_eq_true hne⟩)

/-- Positions inside the subframe, one on each of the tracks listed. -/
def OnTracks (m tracks : List Nat) : Prop := (∀ j ∈ m, j < 40) ∧ m.map (· % 5) = tracks

theorem onTracks_nil : OnTracks [] [] := ⟨by simp, rfl⟩

theorem OnTracks.cons {m tracks : List Nat} {j u : Nat} (hj : j ∈ trackPos u) (hu : u < 5)
    (h : OnTracks m tracks) : OnTracks (j :: m) (u :: tracks) := by
  obtain ⟨hlt, hmod⟩ := (mem_trackPos hu).mp hj
  refine ⟨fun i hi => ?_, by rw [List.map_cons, hmod, h.2]⟩
  rcases List.mem_cons.mp hi with rfl | hi
  · exact hlt
  · exact h.1 i hi

/-- Positions on different tracks are different. -/
theorem OnTracks.nodup {m tracks : List Nat} (h : OnTracks m tracks) (htracks : tracks.Nodup) : m.Nodup :=
  List.Nodup.of_map _ (h.2 ▸ htracks)

theorem mem_pairs {α β : Type} {l : List α} {m : List β} {x : α × β} : x ∈ pairs l m ↔ x.1 ∈ l ∧ x.2 ∈ m := by
  simp only [pairs, List.mem_flatMap, List.mem_map]
  constructor
  · rintro ⟨i, hi, j, hj, rfl⟩
    exact ⟨hi, hj⟩
  · rintro ⟨hi, hj⟩
    exact ⟨x.1, hi, x.2, hj, rfl⟩

theorem map_pairs {α β γ : Type} (f : α → β → γ) (l : List α) (m : List β) :
    (pairs l m).map (fun x => f x.1 x.2) = l.flatMap fun i => m.map (f i) := by
  simp only [pairs, List.map_flatMap, List.map_map, Function.comp_def]

/-! ## A phase of the search (R214) -/

/-- A phase's best pair as the model keeps it: the start where none has been kept. -/
def Pick.ofBest (start : Pick) (corr energy : Nat × Nat → Int) : Option (Nat × Nat) → Pick
  | none => start
  | some m => ⟨corr m * corr m, energy m, m.1, m.2, corr m, energy m⟩

theorem foldl_consider {start : Pick} (hnum : start.num = -1) (hden : start.den = 1)
    (corr energy : Nat × Nat → Int) (l : List (Nat × Nat)) :
    l.foldl (fun best m => best.consider m.1 m.2 (corr m) (energy m)) start
      = start.ofBest corr energy (bestOf corr energy l) := by
  have hstep (m : Nat × Nat) (best : Option (Nat × Nat)) :
      (start.ofBest corr energy best).consider m.1 m.2 (corr m) (energy m)
        = start.ofBest corr energy (keepBest corr energy best m) := by
    have hratio : ((start.ofBest corr energy best).num, (start.ofBest corr energy best).den)
        = keptRatio corr energy best := by
      cases best with
      | none => exact Prod.ext hnum hden
      | some x => rfl
    rw [Pick.consider, keepBest, ← hratio]
    split <;> rfl
  have hfold := foldl_eq_bestOf corr energy (start.ofBest corr energy) id
    (step := fun best m => best.consider m.1 m.2 (corr m) (energy m)) l fun m _ best => hstep m best
  rwa [List.map_id] at hfold

/-- The first best candidate of a phase, or the positions it starts with where no candidate has energy. -/
def PhasePicks (corr energy : List Nat → Int) (candidates : List (List Nat)) (m start : List Nat) : Prop :=
  firstBest corr energy candidates m ∨ (∀ p ∈ candidates, energy p = 0) ∧ m = start

namespace PulseTable

section
variable {t : PulseTable} {u v w z : Nat}

theorem corrOf_pair (t : PulseTable) (i j : Nat) : t.corrOf [i, j] = t.corr i + t.corr j := by
  simp [corrOf]

theorem corrOf_four (t : PulseTable) (p p' i j : Nat) :
    t.corrOf [p, p', i, j] = t.corrOf [p, p'] + t.corr i + t.corr j := by
  simp only [corrOf, List.map_cons, List.map_nil, List.sum_cons, List.sum_nil]
  ring

theorem Sound.energyOf_pair (ht : t.Sound) (i j : Nat) :
    t.energyOf [i, j] = t.energy i i + t.energy j j + 2 * t.energy i j := by
  simp only [energyOf, List.map_cons, List.map_nil, List.sum_cons, List.sum_nil]
  rw [ht.energy_comm j i]
  ring

theorem Sound.energyOf_four (ht : t.Sound) (p p' i j : Nat) : t.energyOf [p, p', i, j]
    = t.energyOf [p, p'] + t.energy i i + t.energy j j
      + 2 * (t.energy p i + t.energy p' i + t.energy p j + t.energy p' j + t.energy i j) := by
  simp only [energyOf, List.map_cons, List.map_nil, List.sum_cons, List.sum_nil]
  rw [ht.energy_comm i p, ht.energy_comm i p', ht.energy_comm j p, ht.energy_comm j p', ht.energy_comm j i]
  ring

/-! ### Phase A -/

/-- The candidates of phase A. -/
def pairCandidates (t : PulseTable) (u v : Nat) : List (List Nat) :=
  (twoLargest t u).flatMap fun i => (trackPos v).map fun j => [i, j]

/-- The position of greatest correlation on a track, and the next. -/
theorem twoLargest_spec (t : PulseTable) (u : Nat) : ∃ i0 i1, twoLargest t u = [i0, i1]
    ∧ firstMax t.corr (trackPos u) i0 ∧ firstMax t.corr ((trackPos u).filter fun j => j ≠ i0) i1 :=
  ⟨_, _, rfl, firstMax_argMax _ _ (List.ne_nil_of_mem (self_mem_trackPos u)),
    firstMax_argMax _ _ (filter_trackPos_ne_nil u _)⟩

theorem mem_trackPos_of_mem_twoLargest {i : Nat} (hi : i ∈ twoLargest t u) : i ∈ trackPos u := by
  obtain ⟨i0, i1, hlargest, h0, h1⟩ := t.twoLargest_spec u
  rw [hlargest] at hi
  rcases List.mem_cons.mp hi with rfl | hi
  · exact firstMax_mem h0
  · rw [List.mem_singleton.mp hi]
    exact List.mem_of_mem_filter (firstMax_mem h1)

theorem phaseA_eq (ht : t.Sound) (u v : Nat) : phaseA t u v
    = Pick.ofBest ⟨-1, 1, u, v, 0, 0⟩ (fun m => t.corrOf [m.1, m.2]) (fun m => t.energyOf [m.1, m.2])
        (bestOf (fun m => t.corrOf [m.1, m.2]) (fun m => t.energyOf [m.1, m.2])
          (pairs (twoLargest t u) (trackPos v))) := by
  rw [← foldl_consider rfl rfl]
  simp only [corrOf_pair, ht.energyOf_pair]
  rfl

/-- Where no candidate of phase A has energy, neither have the positions it starts with: the first position of
its first track is a candidate's, because no later one has correlation. -/
theorem Sound.start_of_no_energy (ht : t.Sound) (hu : u < 5) (hv : v < 5)
    (hall : ∀ p ∈ t.pairCandidates u v, t.energyOf p = 0) : t.energyOf [u, v] = 0 := by
  obtain ⟨i0, i1, hlargest, hfirst, -⟩ := t.twoLargest_spec u
  obtain ⟨-, hmod⟩ := (mem_trackPos hu).mp (firstMax_mem hfirst)
  obtain ⟨before, after, hsplit, hbefore, -⟩ := hfirst
  have hcandidate : t.energyOf [i0, v] = 0 := by
    refine hall _ (List.mem_flatMap.mpr ⟨i0, ?_, List.mem_map.mpr ⟨v, self_mem_trackPos v, rfl⟩⟩)
    rw [hlargest]
    exact List.mem_cons_self
  suffices i0 = u by rwa [this] at hcandidate
  cases before with
  | nil => exact (List.cons.inj hsplit).1.symm
  | cons x before =>
    have hx : u = x := (List.cons.inj hsplit).1
    by_contra hne
    have hlater : v < i0 := by omega
    have hnodup : [i0, v].Nodup := by simp [hlater.ne']
    have hnone : t.corr i0 = 0 := ht.corr_eq_zero _ hnodup hcandidate v (by simp) i0 hlater.le
    have hless := hbefore x List.mem_cons_self
    have hnonneg := ht.corr_nonneg x
    omega

/-- What phase A picks (R214), with its correlation and energy. -/
theorem Sound.phaseA_spec (ht : t.Sound) (hu : u < 5) (hv : v < 5) (huv : u ≠ v) : let a := phaseA t u v
    (a.p ∈ trackPos u ∧ a.p' ∈ trackPos v) ∧ a.cq = t.corrOf [a.p, a.p'] ∧ a.eq = t.energyOf [a.p, a.p']
      ∧ PhasePicks t.corrOf t.energyOf (t.pairCandidates u v) [a.p, a.p'] [u, v] := by
  have htracks : [u, v].Nodup := by simp [huv]
  have hnodup {i j : Nat} (hi : i ∈ trackPos u) (hj : j ∈ trackPos v) : [i, j].Nodup :=
    (OnTracks.cons hi hu (OnTracks.cons hj hv onTracks_nil)).nodup htracks
  have hon {m : Nat × Nat} (hm : m ∈ pairs (twoLargest t u) (trackPos v)) :
      m.1 ∈ trackPos u ∧ m.2 ∈ trackPos v :=
    ⟨mem_trackPos_of_mem_twoLargest (mem_pairs.mp hm).1, (mem_pairs.mp hm).2⟩
  have hcandidates : t.pairCandidates u v
      = (pairs (twoLargest t u) (trackPos v)).map fun m => [m.1, m.2] := (map_pairs _ _ _).symm
  have hspec := bestOf_spec (corr := fun m : Nat × Nat => t.corrOf [m.1, m.2])
    (energy := fun m => t.energyOf [m.1, m.2]) (pairs (twoLargest t u) (trackPos v))
    (fun m _ => ht.energyOf_nonneg _)
    fun m hm => ht.corrOf_eq_zero (hnodup (hon hm).1 (hon hm).2)
  rw [phaseA_eq ht]
  rcases hspec with ⟨hbest, hall⟩ | ⟨m, hbest, hm⟩
  · have hall' : ∀ p ∈ t.pairCandidates u v, t.energyOf p = 0 := by
      rw [hcandidates]
      exact List.forall_mem_map.mpr hall
    have henergy := ht.start_of_no_energy hu hv hall'
    rw [hbest]
    exact ⟨⟨self_mem_trackPos u, self_mem_trackPos v⟩, (ht.corrOf_eq_zero htracks henergy).symm, henergy.symm,
      .inr ⟨hall', rfl⟩⟩
  · rw [hbest, hcandidates]
    exact ⟨hon (firstBest_mem hm), rfl, rfl, .inl (firstBest_map hm)⟩

/-! ### Phase B -/

/-- The candidates of phase B on the pair of phase A. -/
def fourCandidates (w z ia ib : Nat) : List (List Nat) :=
  (trackPos w).flatMap fun i => (trackPos z).map fun j => [ia, ib, i, j]

theorem phaseB_eq (ht : t.Sound) {a : Pick} (hcq : a.cq = t.corrOf [a.p, a.p'])
    (heq : a.eq = t.energyOf [a.p, a.p']) (w z : Nat) : phaseB t w z a
    = Pick.ofBest ⟨-1, 1, w, z, a.cq, a.eq⟩ (fun m => t.corrOf [a.p, a.p', m.1, m.2])
        (fun m => t.energyOf [a.p, a.p', m.1, m.2])
        (bestOf (fun m => t.corrOf [a.p, a.p', m.1, m.2]) (fun m => t.energyOf [a.p, a.p', m.1, m.2])
          (pairs (trackPos w) (trackPos z))) := by
  rw [← foldl_consider rfl rfl]
  simp only [corrOf_four, ht.energyOf_four, ← hcq, ← heq]
  rfl

/-- What phase B picks on the pair of phase A (R214): four pulses with their correlation and energy, or, where no
candidate has energy, none that could count. -/
theorem Sound.phaseB_spec (ht : t.Sound) {a : Pick} (hcq : a.cq = t.corrOf [a.p, a.p'])
    (heq : a.eq = t.energyOf [a.p, a.p'])
    (hnodup : ∀ i ∈ trackPos w, ∀ j ∈ trackPos z, [a.p, a.p', i, j].Nodup) : let b := phaseB t w z a
    let m := [a.p, a.p', b.p, b.p']
    (b.p ∈ trackPos w ∧ b.p' ∈ trackPos z)
      ∧ PhasePicks t.corrOf t.energyOf (fourCandidates w z a.p a.p') m [a.p, a.p', w, z]
      ∧ ((0 ≤ b.num ∧ b.cq = t.corrOf m ∧ b.eq = t.energyOf m)
        ∨ (b.num < 0 ∧ t.corrOf m = 0 ∧ t.energyOf m = 0)) := by
  have hcandidates : fourCandidates w z a.p a.p'
      = (pairs (trackPos w) (trackPos z)).map fun m => [a.p, a.p', m.1, m.2] := (map_pairs _ _ _).symm
  have hspec := bestOf_spec (corr := fun m : Nat × Nat => t.corrOf [a.p, a.p', m.1, m.2])
    (energy := fun m => t.energyOf [a.p, a.p', m.1, m.2]) (pairs (trackPos w) (trackPos z))
    (fun m _ => ht.energyOf_nonneg _)
    fun m hm => ht.corrOf_eq_zero (hnodup _ (mem_pairs.mp hm).1 _ (mem_pairs.mp hm).2)
  rw [phaseB_eq ht hcq heq]
  rcases hspec with ⟨hbest, hall⟩ | ⟨m, hbest, hm⟩
  · have hstart : (w, z) ∈ pairs (trackPos w) (trackPos z) :=
      mem_pairs.mpr ⟨self_mem_trackPos w, self_mem_trackPos z⟩
    have henergy : t.energyOf [a.p, a.p', w, z] = 0 := hall _ hstart
    have hcorr := ht.corrOf_eq_zero (hnodup w (self_mem_trackPos w) z (self_mem_trackPos z)) henergy
    rw [hbest, hcandidates]
    exact ⟨⟨self_mem_trackPos w, self_mem_trackPos z⟩, .inr ⟨List.forall_mem_map.mpr hall, rfl⟩,
      .inr ⟨neg_one_lt_zero, hcorr, henergy⟩⟩
  · rw [hbest, hcandidates]
    exact ⟨mem_pairs.mp (firstBest_mem hm), .inl (firstBest_map hm), .inl ⟨mul_self_nonneg _, rfl, rfl⟩⟩

end

end PulseTable

/-! ## The schedule (R214) -/

/-- The tracks of a pass: two for phase A, two for phase B. -/
def tracksOf (p : Pass) : List Nat := [p.u, p.v, p.w, p.zt]

/-- The best over the passes as the model keeps it. -/
def BestPulses.ofBest (t : PulseTable) : Option (List Nat) → BestPulses
  | none => ⟨-1, 1, [0, 1, 2, 3]⟩
  | some m => ⟨t.corrOf m * t.corrOf m, t.energyOf m, m⟩

/-- What a pass on the tracks `u`, `v`, `w`, `z` chooses (R214): the two greatest correlations of the first track,
the best pair they make with the second, and the best four that pair makes with the other two. -/
def PassPicks (score : Nat → Int) (corr energy : List Nat → Int) (u v w z : Nat) (m : List Nat) : Prop :=
  ∃ i0 i1 ia ib ic id : Nat, m = [ia, ib, ic, id]
    ∧ firstMax score (trackPos u) i0 ∧ firstMax score ((trackPos u).filter (· ≠ i0)) i1
    ∧ (let pair : List (List Nat) := [i0, i1].flatMap fun i => (trackPos v).map fun j => [i, j]
       firstBest corr energy pair [ia, ib] ∨ (∀ p ∈ pair, energy p = 0) ∧ ia = u ∧ ib = v)
    ∧ (let four : List (List Nat) := (trackPos w).flatMap fun i => (trackPos z).map fun j => [ia, ib, i, j]
       firstBest corr energy four m ∨ (∀ p ∈ four, energy p = 0) ∧ ic = w ∧ id = z)

namespace PulseTable

variable {t : PulseTable}

/-- The four positions of a pass. -/
def passPulses (t : PulseTable) (p : Pass) : List Nat :=
  let a := phaseA t p.u p.v
  let b := phaseB t p.w p.zt a
  [a.p, a.p', b.p, b.p']

/-- One pass: its four positions are on its tracks, are the ones R214 chooses, and are compared with the best so far
by their own ratio. -/
theorem Sound.pass_spec (ht : t.Sound) {p : Pass} (htracks : (tracksOf p).Nodup) (hlt : ∀ u ∈ tracksOf p, u < 5) :
    OnTracks (t.passPulses p) (tracksOf p)
      ∧ PassPicks t.corr t.corrOf t.energyOf p.u p.v p.w p.zt (t.passPulses p)
      ∧ ∀ best, (BestPulses.ofBest t best).pass t p
          = BestPulses.ofBest t (keepBest t.corrOf t.energyOf best (t.passPulses p)) := by
  have hu : p.u < 5 := hlt _ (by simp [tracksOf])
  have hv : p.v < 5 := hlt _ (by simp [tracksOf])
  have hw : p.w < 5 := hlt _ (by simp [tracksOf])
  have hz : p.zt < 5 := hlt _ (by simp [tracksOf])
  have huv : p.u ≠ p.v := (List.nodup_cons.mp htracks).1 ∘ fun h => h ▸ List.mem_cons_self
  obtain ⟨⟨hp, hp'⟩, hcq, heq, hpair⟩ := ht.phaseA_spec hu hv huv
  have hon {i j : Nat} (hi : i ∈ trackPos p.w) (hj : j ∈ trackPos p.zt) :
      OnTracks [(phaseA t p.u p.v).p, (phaseA t p.u p.v).p', i, j] (tracksOf p) :=
    .cons hp hu (.cons hp' hv (.cons hi hw (.cons hj hz onTracks_nil)))
  obtain ⟨⟨hq, hq'⟩, hfour, hratio⟩ := ht.phaseB_spec hcq heq fun i hi j hj => (hon hi hj).nodup htracks
  obtain ⟨i0, i1, hlargest, h0, h1⟩ := t.twoLargest_spec p.u
  refine ⟨hon hq hq', ⟨i0, i1, _, _, _, _, rfl, h0, h1, ?pair, ?four⟩, fun best => ?compare⟩
  case pair =>
    rw [pairCandidates, hlargest] at hpair
    simpa only [PhasePicks, List.cons.injEq, and_true] using hpair
  case four =>
    simp only [PhasePicks, List.cons.injEq, and_true, true_and] at hfour
    exact hfour
  case compare =>
    have hkept : ((BestPulses.ofBest t best).num, (BestPulses.ofBest t best).den)
        = keptRatio t.corrOf t.energyOf best := by cases best <;> rfl
    rcases hratio with ⟨hnum, hcq', heq'⟩ | ⟨hnum, hcorr, henergy⟩
    · rw [BestPulses.pass, keepBest, ← hkept, passPulses]
      simp only [hnum, true_and, hcq', heq']
      split <;> rfl
    · rw [BestPulses.pass, if_neg fun h => absurd h.1 (not_le.mpr hnum), passPulses,
        keepBest_of_zero _ hcorr henergy]

/-- The four positions of each pass. -/
def passes (t : PulseTable) : List (List Nat) := fcbScheduleDefault.map t.passPulses

/-- The four positions chosen over the schedule. -/
def chosen (t : PulseTable) : List Nat := (bestOf t.corrOf t.energyOf t.passes).getD [0, 1, 2, 3]

theorem schedule_tracks : ∀ p ∈ fcbScheduleDefault, (tracksOf p).Nodup ∧ (∀ u ∈ tracksOf p, u < 5)
    ∧ 0 ∈ tracksOf p ∧ 1 ∈ tracksOf p ∧ 2 ∈ tracksOf p ∧ (3 ∈ tracksOf p ∨ 4 ∈ tracksOf p) := by decide

theorem Sound.foldl_pass (ht : t.Sound) :
    (fcbScheduleDefault.foldl (BestPulses.pass t) ⟨-1, 1, [0, 1, 2, 3]⟩).m = t.chosen := by
  have hfold := foldl_eq_bestOf t.corrOf t.energyOf (BestPulses.ofBest t) t.passPulses
    (step := BestPulses.pass t) fcbScheduleDefault fun p hp best => by
      obtain ⟨hnodup, hlt, -⟩ := schedule_tracks p hp
      exact (ht.pass_spec hnodup hlt).2.2 best
  have hm (best : Option (List Nat)) : (BestPulses.ofBest t best).m = best.getD [0, 1, 2, 3] := by cases best <;> rfl
  exact (congrArg BestPulses.m hfold).trans (hm _)

/-- The first best pass, or positions 0 to 3 where no pass has energy (R214). -/
theorem Sound.chosen_spec (ht : t.Sound) : PhasePicks t.corrOf t.energyOf t.passes t.chosen [0, 1, 2, 3] := by
  have hzero : ∀ m ∈ t.passes, t.energyOf m = 0 → t.corrOf m = 0 := by
    refine List.forall_mem_map.mpr fun p hp => ht.corrOf_eq_zero ?_
    obtain ⟨hnodup, hlt, -⟩ := schedule_tracks p hp
    exact (ht.pass_spec hnodup hlt).1.nodup hnodup
  unfold chosen
  rcases bestOf_spec t.passes (fun m _ => ht.energyOf_nonneg m) hzero with ⟨hbest, hall⟩ | ⟨m, hbest, hm⟩
  · rw [hbest]
    exact .inr ⟨hall, rfl⟩
  · rw [hbest]
    exact .inl hm

/-- Positions inside the subframe with one on each of the tracks 0, 1, 2 and one on track 3 or 4 (R210). -/
structure Covers (m : List Nat) : Prop where
  lt : ∀ j ∈ m, j < 40
  track0 : ∃ j ∈ m, j % 5 = 0
  track1 : ∃ j ∈ m, j % 5 = 1
  track2 : ∃ j ∈ m, j % 5 = 2
  track3 : ∃ j ∈ m, 3 ≤ j % 5

theorem covers_of_onTracks {m tracks : List Nat} (h : OnTracks m tracks) (h0 : 0 ∈ tracks) (h1 : 1 ∈ tracks)
    (h2 : 2 ∈ tracks) (h3 : 3 ∈ tracks ∨ 4 ∈ tracks) : Covers m := by
  obtain ⟨hlt, rfl⟩ := h
  refine ⟨hlt, List.mem_map.mp h0, List.mem_map.mp h1, List.mem_map.mp h2, ?_⟩
  rcases h3 with h3 | h3
  · obtain ⟨j, hj, hmod⟩ := List.mem_map.mp h3
    exact ⟨j, hj, hmod.ge⟩
  · obtain ⟨j, hj, hmod⟩ := List.mem_map.mp h3
    exact ⟨j, hj, by omega⟩

theorem Sound.chosen_covers (ht : t.Sound) : Covers t.chosen := by
  rcases ht.chosen_spec with hbest | ⟨-, hstart⟩
  · obtain ⟨p, hp, hm⟩ := List.mem_map.mp (firstBest_mem hbest)
    obtain ⟨hnodup, hlt, h0, h1, h2, h3⟩ := schedule_tracks p hp
    rw [← hm]
    exact covers_of_onTracks (ht.pass_spec hnodup hlt).1 h0 h1 h2 h3
  · rw [hstart]
    exact covers_of_onTracks (tracks := [0, 1, 2, 3]) ⟨by decide, rfl⟩ (by decide) (by decide) (by decide)
      (by decide)

end PulseTable

/-! ## The pulses filed by their tracks (R210, R214) -/

/-- Where a position is on the track asked for, one such is filed. -/
theorem filed_spec {m : List Nat} {onTrack : Nat → Bool} {first : Nat} (h : ∃ j ∈ m, onTrack j = true) :
    filed m onTrack first ∈ m ∧ onTrack (filed m onTrack first) = true := by
  obtain ⟨j, hj⟩ := Option.isSome_iff_exists.mp (List.find?_isSome.mpr h)
  rw [filed, hj, Option.getD_some]
  exact ⟨List.mem_of_find?_eq_some hj, List.find?_some hj⟩

/-- Pulses at positions of `m`, each on its track, with the signs of the table. -/
structure FiledFrom (t : PulseTable) (m : List Nat) (p : Pulses) : Prop where
  mem0 : p.m0 ∈ m
  mem1 : p.m1 ∈ m
  mem2 : p.m2 ∈ m
  mem3 : p.m3 ∈ m
  track0 : p.m0 % 5 = 0
  track1 : p.m1 % 5 = 1
  track2 : p.m2 % 5 = 2
  track3 : 3 ≤ p.m3 % 5
  sign0 : p.p0 = t.pos.getD p.m0 true
  sign1 : p.p1 = t.pos.getD p.m1 true
  sign2 : p.p2 = t.pos.getD p.m2 true
  sign3 : p.p3 = t.pos.getD p.m3 true

theorem searchPulses_filedFrom {t : PulseTable} (ht : t.Sound) : FiledFrom t t.chosen (searchPulses cfg t) := by
  have hcovers := ht.chosen_covers
  rw [← ht.foldl_pass] at hcovers ⊢
  have h0 := filed_spec (onTrack := fun j => j % 5 == 0) (first := 0) (by simpa using hcovers.track0)
  have h1 := filed_spec (onTrack := fun j => j % 5 == 1) (first := 1) (by simpa using hcovers.track1)
  have h2 := filed_spec (onTrack := fun j => j % 5 == 2) (first := 2) (by simpa using hcovers.track2)
  have h3 := filed_spec (onTrack := fun j => 3 ≤ j % 5) (first := 3) (by simpa using hcovers.track3)
  exact {
    mem0 := h0.1
    mem1 := h1.1
    mem2 := h2.1
    mem3 := h3.1
    track0 := beq_iff_eq.mp h0.2
    track1 := beq_iff_eq.mp h1.2
    track2 := beq_iff_eq.mp h2.2
    track3 := of_decide_eq_true h3.2
    sign0 := rfl
    sign1 := rfl
    sign2 := rfl
    sign3 := rfl }

/-- Such pulses are what the decoder makes of their codewords (R217). -/
theorem FiledFrom.fcbDecode_fcbEncode {t : PulseTable} {m : List Nat} {p : Pulses} (h : FiledFrom t m p)
    (hm : ∀ j ∈ m, j < 40) : cfg.fcbDecode (cfg.fcbEncode p).1 (cfg.fcbEncode p).2 = p
      ∧ (cfg.fcbEncode p).1 < 2 ^ 13 ∧ (cfg.fcbEncode p).2 < 2 ^ 4 :=
  Machine.fcbDecode_fcbEncode p (hm _ h.mem0) (hm _ h.mem1) (hm _ h.mem2) (hm _ h.mem3) h.track0 h.track1 h.track2
    h.track3

/-! ## FCB.SEARCH (R211 to R216) -/

/-! ### The vectors it works on -/

theorem boundedGain_eq (g : Int) : boundedGain cfg g = min 13107 (max 3277 g) := by
  have hmin : q cfg.betaMin cfg.qGp = 3277 := by
    show ⌊(1 / 5 * 2 ^ 14 + 1 / 2 : Rat)⌋ = 3277
    norm_num
  have hmax : q cfg.betaMax cfg.qGp = 13107 := by
    show ⌊(4 / 5 * 2 ^ 14 + 1 / 2 : Rat)⌋ = 13107
    norm_num
  rw [boundedGain, hmin, hmax, clamp]

theorem toInt_reducedTarget (rs : Regs) (n : Nat) : (reducedTarget cfg rs n).toInt
    = min 32767 (max (-32768) (rs.int .x n - ⌊(rs.int .gpu 0 * rs.int .y n : Rat) / 2 ^ cfg.qGp + 1 / 2⌋)) := by
  rw [reducedTarget, sat16_toInt, shrR_eq_rnd, rnd_eq_floor, Int.cast_mul]

section
variable (s : State)

/-- The reduced target as integers (R212 (b)). -/
def State.reduced (n : Nat) : Int := (reducedTarget cfg s.regs n).toInt

/-- The impulse response sharpened (R212 (a)). -/
def State.sharpened : List Int := sharpen cfg (s.regs.int .h) s.regs.lag (encBeta cfg s)

/-- What the search reads (R212 (c) to (e)). -/
def State.pulseTable : PulseTable := Machine.pulseTable (tabFrom s.reduced 0 40) s.sharpened

theorem fcbPulses_cfg : fcbPulses cfg s = searchPulses cfg s.pulseTable := rfl

theorem State.pulseTable_sound : s.pulseTable.Sound := Machine.pulseTable_sound _ _

theorem State.fcbCorr_eq (n : Nat) : fcbCorr (tabFrom s.reduced 0 40) s.sharpened n
    = ∑ i ∈ Finset.range (40 - n), s.reduced (n + i) * s.sharpened.getD i 0 := by
  rw [fcbCorr_eq_sum]
  refine Finset.sum_congr rfl fun i hi => ?_
  have hi : i < 40 - n := Finset.mem_range.mp hi
  rw [tabFrom_getD, if_pos (by omega), Nat.zero_add]

end

/-! ### What it writes -/

section
variable {s : State} {sf : Subframe}

theorem exec_fcbSearch (hs : s.ready .e [.all .x, .all .y, .all .gpu, .all .h, .all .t0] = true)
    (hlag : 19 ≤ s.regs.int .t0 0 ∧ s.regs.int .t0 0 ≤ 144) :
    exec (.fcbSearch sf) s = .next (fcbSearch cfg sf s) :=
  checked_of_ready hs ((lagInRange_iff _).mpr hlag)

/-- The reduced target, the code vector and the codewords written, before the filtered vector. -/
def State.pulsesWritten (s : State) (sf : Subframe) (p : Pulses) : State :=
  (((s.setAll .x2 (reducedTarget cfg s.regs)).setAll .fcv (codeVector cfg p s.regs.lag (encBeta cfg s))).setFrom .prm
    (6 + 5 * sf.idx) 1 fun _ => BitVec.ofNat 16 (cfg.fcbEncode p).1).setFrom .prm
    (7 + 5 * sf.idx) 1 fun _ => BitVec.ofNat 16 (cfg.fcbEncode p).2

theorem fcbSearch_cfg (s : State) (sf : Subframe) :
    fcbSearch cfg sf s = setZ cfg (s.pulsesWritten sf (fcbPulses cfg s)) := rfl

theorem setZ_pulsesWritten_frame (s : State) (sf : Subframe) (p : Pulses) :
    let t := setZ cfg (s.pulsesWritten sf p)
    controlKept s t ∧ channelKept s t ∧ bufsKept nowhere s t := by
  simp [setZ, State.pulsesWritten, controlKept, modelKept, channelKept, bufsKept]

theorem setZ_regsKept (s : State) : regsKept (wholly [.z]) s (setZ cfg s) :=
  (regsKept.refl _ s).setAll fun _ => by simp [wholly]

theorem State.pulsesWritten_regsKept (s : State) (sf : Subframe) (p : Pulses) :
    regsKept (fun reg i => wholly [.x2, .fcv] reg i ∨ part .prm (6 + 5 * sf.idx) 2 reg i) s
      (s.pulsesWritten sf p) :=
  ((((regsKept.refl _ s).setAll fun _ => .inl (by simp [wholly])).setAll fun _ => .inl (by simp [wholly])).setFrom
    fun _ hlo hhi => .inr ⟨rfl, by omega, by omega⟩).setFrom fun _ hlo hhi => .inr ⟨rfl, by omega, by omega⟩

theorem State.pulsesWritten_holds_fcv (s : State) (sf : Subframe) (p : Pulses) {n : Nat} (hn : n < 40) :
    (s.pulsesWritten sf p).holds .fcv n (codeVector cfg p s.regs.lag (encBeta cfg s) n).toInt :=
  State.holds_of_regsKept (setFrom_regsKept _ _ _ _ _) (by simp [part])
    (State.holds_of_regsKept (setFrom_regsKept _ _ _ _ _) (by simp [part]) (State.holds_setAll _ hn rfl))

theorem State.pulsesWritten_holds_x2 (s : State) (sf : Subframe) (p : Pulses) {n : Nat} (hn : n < 40) :
    (s.pulsesWritten sf p).holds .x2 n (s.reduced n) :=
  State.holds_of_regsKept (setFrom_regsKept _ _ _ _ _) (by simp [part])
    (State.holds_of_regsKept (setFrom_regsKept _ _ _ _ _) (by simp [part])
      ((State.holds_setAll_of_ne (by decide)).mpr (s.holds_setAll hn rfl)))

theorem State.pulsesWritten_prmHolds (s : State) (sf : Subframe) {p : Pulses} (hc : (cfg.fcbEncode p).1 < 2 ^ 13)
    (hsgn : (cfg.fcbEncode p).2 < 2 ^ 4) : let t := s.pulsesWritten sf p
    t.prmHolds (6 + 5 * sf.idx) (cfg.fcbEncode p).1 ∧ t.prmHolds (7 + 5 * sf.idx) (cfg.fcbEncode p).2 := by
  have hidx : sf.idx ≤ 1 := by cases sf <;> decide
  exact ⟨State.prmHolds_of_regsKept (setFrom_regsKept _ _ _ _ _) (by simp [part])
      (State.prmHolds_setFrom _ (by omega) (hc.trans (by norm_num))),
    State.prmHolds_setFrom _ (by omega) (hsgn.trans (by norm_num))⟩

/-- What `FCB.SEARCH` leaves (R216), for the pulses `p` it chooses. -/
structure FcbSearchLeaves (s : State) (sf : Subframe) (p : Pulses) (t : State) : Prop where
  position : t.prmHolds (6 + 5 * sf.idx) (cfg.fcbEncode p).1
  sign : t.prmHolds (7 + 5 * sf.idx) (cfg.fcbEncode p).2
  fcv : ∀ n < 40, t.holds .fcv n (codeVector cfg p s.regs.lag (encBeta cfg s) n).toInt
  x2 : ∀ n < 40, t.holds .x2 n (s.reduced n)
  z : ∀ n < 40, t.holds .z n (narrow16 (((∑ i ∈ Finset.range (n + 1),
    t.regs.int .fcv i * s.regs.int .h (n - i) : Int) : Rat) * 2 ^ cfg.qZ / 2 ^ (cfg.qFcv + cfg.qH)))
  control : controlKept s t
  channel : channelKept s t
  bufs : bufsKept nowhere s t
  regs : regsKept (fun reg i => wholly [.x2, .fcv, .z] reg i ∨ part .prm (6 + 5 * sf.idx) 2 reg i) s t

theorem fcbSearch_leaves (s : State) (sf : Subframe) (hc : (cfg.fcbEncode (fcbPulses cfg s)).1 < 2 ^ 13)
    (hsgn : (cfg.fcbEncode (fcbPulses cfg s)).2 < 2 ^ 4) :
    FcbSearchLeaves s sf (fcbPulses cfg s) (fcbSearch cfg sf s) := by
  rw [fcbSearch_cfg]
  generalize fcbPulses cfg s = p at hc hsgn ⊢
  have hz := setZ_regsKept (s.pulsesWritten sf p)
  have hwritten := s.pulsesWritten_regsKept sf p
  obtain ⟨hcontrol, hchannel, hbufs⟩ := setZ_pulsesWritten_frame s sf p
  obtain ⟨hposition, hsign⟩ := s.pulsesWritten_prmHolds sf hc hsgn
  have hfcv (i : Nat) : (setZ cfg (s.pulsesWritten sf p)).regs.int .fcv i = (s.pulsesWritten sf p).regs.int .fcv i :=
    (Regs.read_congr (hz .fcv i (by simp [wholly]))).1
  have hh (i : Nat) : (s.pulsesWritten sf p).regs.int .h i = s.regs.int .h i :=
    (Regs.read_congr (hwritten .h i (by simp [wholly, part]))).1
  exact {
    position := State.prmHolds_of_regsKept hz (by simp [wholly]) hposition
    sign := State.prmHolds_of_regsKept hz (by simp [wholly]) hsign
    fcv := fun n hn => State.holds_of_regsKept hz (by simp [wholly]) (s.pulsesWritten_holds_fcv sf p hn)
    x2 := fun n hn => State.holds_of_regsKept hz (by simp [wholly]) (s.pulsesWritten_holds_x2 sf p hn)
    z := fun n hn => by
      simp only [hfcv, ← hh]
      exact State.setZ_holds _ hn
    control := hcontrol
    channel := hchannel
    bufs := hbufs
    regs := (hwritten.mono fun reg i h => h.imp_left fun hreg => by
        simp only [wholly, List.mem_cons] at hreg ⊢
        tauto).trans
      (hz.mono fun reg i h => .inl (by
        simp only [wholly, List.mem_cons] at h ⊢
        tauto)) }

end

/-- Settles O30: the pulses chosen are filed by their tracks, so that the decoder makes them of their codewords. -/
theorem fcbSearchConsistent : Obligations.FcbSearchConsistent := by
  intro s sf hs hlo hhi lag beta hsharp x2 d
  have hbeta : encBeta cfg s = beta := boundedGain_eq _
  have hx2 : x2 = s.reduced := funext fun n => (toInt_reducedTarget s.regs n).symm
  have hd (n : Nat) : fcbCorr (tabFrom s.reduced 0 40) s.sharpened n = d n := by
    rw [s.fcbCorr_eq, ← hx2, State.sharpened, hbeta]
    rfl
  have hfiled := searchPulses_filedFrom s.pulseTable_sound
  have hlt := s.pulseTable_sound.chosen_covers.lt
  have hsign {j : Nat} (hj : j ∈ s.pulseTable.chosen) : s.pulseTable.pos.getD j true = decide (0 ≤ d j) := by
    rw [State.pulseTable, pulseTable_pos _ _ (hlt j hj), hd]
  obtain ⟨hdecode, hc, hsgn⟩ := hfiled.fcbDecode_fcbEncode hlt
  have h := fcbSearch_leaves s sf hc hsgn
  refine ⟨_, _, _, exec_fcbSearch hs ⟨hlo, hhi⟩, h.position, h.sign, hc, hsgn, ?pulses, hx2 ▸ h.x2, h.z, h.control,
    h.channel, h.bufs, h.regs⟩
  case pulses =>
    rw [fcbPulses_cfg, hdecode, ← hbeta]
    exact ⟨⟨hfiled.sign0.trans (hsign hfiled.mem0), hfiled.sign1.trans (hsign hfiled.mem1),
      hfiled.sign2.trans (hsign hfiled.mem2), hfiled.sign3.trans (hsign hfiled.mem3)⟩, h.fcv⟩

/-- Settles O31: the search is `passes` and `chosen` on the table of `s`, whose correlations and products are those
of the statement. -/
theorem fcbSearchFindsBest : Obligations.FcbSearchFindsBest := by
  intro s sf hs hlo hhi lag beta hsharp x2 d sgn ps corr energy pos pass
  have hbeta : encBeta cfg s = beta := boundedGain_eq _
  have hx2 : x2 = s.reduced := funext fun n => (toInt_reducedTarget s.regs n).symm
  have hd : fcbCorr (tabFrom s.reduced 0 40) s.sharpened = d := by
    funext n
    rw [s.fcbCorr_eq, ← hx2, State.sharpened, hbeta]
    rfl
  have hscore : s.pulseTable.corr = fun n => |d n| := by
    funext n
    rw [State.pulseTable, pulseTable_corr, hd]
  have hps : s.pulseTable.energy = ps := by
    funext i j
    rw [State.pulseTable, pulseTable_energy, hd, State.sharpened, hbeta]
    rfl
  have hcorr : s.pulseTable.corrOf = corr := by
    funext m
    rw [PulseTable.corrOf, hscore]
  have henergy : s.pulseTable.energyOf = energy := by
    funext m
    rw [PulseTable.energyOf, hps]
  have ht := s.pulseTable_sound
  have hpass (p : Pass) (hp : p ∈ fcbScheduleDefault) : pass p.u p.v p.w p.zt (s.pulseTable.passPulses p) := by
    obtain ⟨hnodup, hlt, -⟩ := PulseTable.schedule_tracks p hp
    have h := (ht.pass_spec hnodup hlt).2.1
    rw [hscore, hcorr, henergy] at h
    exact h
  have hchosen := ht.chosen_spec
  rw [hcorr, henergy] at hchosen
  have hfiled := searchPulses_filedFrom ht
  obtain ⟨hdecode, hc, hsgn⟩ := hfiled.fcbDecode_fcbEncode ht.chosen_covers.lt
  have h := fcbSearch_leaves s sf hc hsgn
  refine ⟨_, _, _, _, _, _, _, _, exec_fcbSearch hs ⟨hlo, hhi⟩, h.position, h.sign,
    hpass ⟨2, 3, 0, 1⟩ (by decide), hpass ⟨3, 0, 1, 2⟩ (by decide), hpass ⟨2, 4, 0, 1⟩ (by decide),
    hpass ⟨4, 0, 1, 2⟩ (by decide), hchosen, ?filed⟩
  rw [fcbPulses_cfg, hdecode]
  exact ⟨hfiled.mem0, hfiled.mem1, hfiled.mem2, hfiled.mem3⟩

end Sys2Proof.Machine

/-! # O36, O38 to O42: the gain unit

The two roundings of the unit, of a square root (R240) and of a logarithm (R245), are searches by a test
without that function; what such a search returns comes first. Then the commands. -/

namespace Sys2Proof.Machine

-- One proof at a time: proofs elaborated side by side each hold a thread and its stack (as in the tests).
set_option Elab.async false

/-! ## Rounding by a test (R117, R118) -/

/-- Where the test is downward closed above the start, the search returns the greatest candidate that passes,
or the start where none does: the start itself is not tested. -/
theorem greatest_spec_above {p : Int → Bool} {lo : Int} (hp : ∀ a b, lo < a → a ≤ b → p b = true → p a = true)
    (n : Nat) : let g := greatest p lo n
    lo ≤ g ∧ g < lo + 2 ^ n ∧ (∀ k, lo < k → k ≤ g → p k = true) ∧ ∀ k, g < k → k < lo + 2 ^ n → p k = false := by
  induction n generalizing lo with
  | zero => exact ⟨le_rfl, by simp [greatest], fun k hk hk' => by simp [greatest] at hk'; omega,
      fun k hk hk' => by simp [greatest] at hk hk'; omega⟩
  | succ n ih =>
    have hpos : (0 : Int) < 2 ^ n := by positivity
    have hdouble : (2 : Int) ^ (n + 1) = 2 ^ n + 2 ^ n := by ring
    rw [greatest]
    split
    case isTrue hmid =>
      obtain ⟨hlo, hhi, hpass, hfail⟩ := ih (lo := lo + 2 ^ n) fun a b ha => hp a b (by omega)
      refine ⟨by omega, by omega, fun k hk hkg => ?_, fun k hk hkn => hfail k hk (by omega)⟩
      rcases le_or_gt k (lo + 2 ^ n) with hle | hgt
      · exact hp k _ hk hle hmid
      · exact hpass k hgt hkg
    case isFalse hmid =>
      obtain ⟨hlo, hhi, hpass, hfail⟩ := ih hp
      refine ⟨hlo, by omega, hpass, fun k hk hkn => ?_⟩
      rcases lt_or_ge k (lo + 2 ^ n) with hlt | hge
      · exact hfail k hk hlt
      · exact Bool.eq_false_of_not_eq_true fun hk' => hmid (hp _ k (by omega) hge hk')

/-! ## GAIN.PRED (R240) -/

/-- The test of the square root: `k - 1/2 ≤ √y` for a candidate `k ≥ 1`. -/
def leSqrt (y : Rat) (k : Int) : Bool := decide (((2 * k - 1) * (2 * k - 1) : Int) ≤ 4 * y)

theorem rndSqrtPos31_eq (y : Rat) : rndSqrtPos31 y = min 2147483647 (greatest (leSqrt y) 1 31) := rfl

theorem leSqrt_iff (y : Rat) (k : Int) : leSqrt y k = true ↔ ((2 * k - 1) * (2 * k - 1) : Rat) ≤ 4 * y := by
  rw [leSqrt, decide_eq_true_iff]
  push_cast
  rfl

theorem leSqrt_of_le {y : Rat} {a b : Int} (ha : 1 < a) (hab : a ≤ b) (hb : leSqrt y b = true) :
    leSqrt y a = true := by
  have hsq : (2 * a - 1) * (2 * a - 1) ≤ (2 * b - 1) * (2 * b - 1) :=
    mul_self_le_mul_self (by omega) (by omega)
  exact decide_eq_true ((Int.cast_le.mpr hsq).trans (of_decide_eq_true hb))

theorem rndSqrtPos31_spec (y : Rat) : let g := rndSqrtPos31 y
    1 ≤ g ∧ g ≤ 2147483647 ∧ (g = 1 ∨ ((2 * g - 1) * (2 * g - 1) : Rat) ≤ 4 * y)
      ∧ (g = 2147483647 ∨ 4 * y < ((2 * g + 1) * (2 * g + 1) : Rat)) := by
  intro g
  obtain ⟨hlo, hhi, hpass, hfail⟩ := greatest_spec_above (p := leSqrt y) (fun _ _ => leSqrt_of_le) 31
  have hg : g = min 2147483647 (greatest (leSqrt y) 1 31) := rndSqrtPos31_eq y
  refine ⟨by omega, by omega, or_iff_not_imp_left.mpr fun hne => ?below, or_iff_not_imp_left.mpr fun hne => ?above⟩
  case below => exact (leSqrt_iff y g).mp (hpass g (by omega) (by omega))
  case above =>
    have hnext := mt (leSqrt_iff y (g + 1)).mpr (Bool.eq_false_iff.mp (hfail (g + 1) (by omega) (by omega)))
    push_cast at hnext
    linarith

theorem predictedDb_eq_sum (c : Config) (s : State) : predictedDb c s = ∑ k ∈ Finset.range 4,
    ((c.tGainMa k).toInt : Rat) / 2 ^ 15 * ((s.gpeHist k : Rat) / 2 ^ c.qGpe) :=
  sumN_eq_sum _ _

theorem cast_codeEnergy (rs : Regs) : let en : Int := ∑ n ∈ Finset.range 40, rs.int .fcv n * rs.int .fcv n
    (codeEnergy rs : Rat) = if en = 0 then 1 else en := by
  intro en
  have hen : codeEnergy rs = if en = 0 then 1 else en := by rw [codeEnergy, sumN_eq_sum]
  rw [hen, apply_ite (Int.cast : Int → Rat), Int.cast_one]

theorem exec_gainPred {s : State} (hs : s.ready .ed [.all .fcv] = true) :
    exec .gainPred s = .next (gainPred cfg s) :=
  checked_of_ready hs rfl

/-- Settles O36: the square that `predictedSquare` gives is the statement's, and its root is rounded by
`rndSqrtPos31`. -/
theorem gainPredRounded : Obligations.GainPredRounded := by
  intro s hs en ep sq
  have hsq : predictedSquare cfg s = sq := by rw [predictedSquare, predictedDb_eq_sum, cast_codeEnergy]
  obtain ⟨hlo, hhi, hbelow, habove⟩ := rndSqrtPos31_spec sq
  exact ⟨gainPred cfg s, rndSqrtPos31 sq, exec_gainPred hs,
    s.holds_setAll Nat.one_pos (by rw [hsq, toInt_ofInt32 (by omega) (by omega)]), hlo, hhi, hbelow, habove,
    (WritesOnly.refl _ s).setAll (by simp)⟩

/-! ## Decibels (R245) -/

/-- The test in integers compares a power of ten with a power of the factor. -/
theorem leDb_iff_zpow_le {m : Nat} (f g : Nat) (k : Int) :
    leDb m f g k = true ↔ (10 : ℝ) ^ (2 * k - 1) ≤ ((m : ℝ) / 2 ^ f) ^ (40 * 2 ^ g) := by
  rw [div_pow, ← pow_mul, le_div_iff₀ (by positivity), leDb]
  generalize 40 * 2 ^ g = e
  split
  case isTrue hk =>
    obtain ⟨j, hj⟩ := Int.eq_ofNat_of_zero_le (show 0 ≤ 2 * k - 1 by omega)
    rw [hj, Int.toNat_natCast, zpow_natCast, decide_eq_true_iff]
    norm_cast
  case isFalse hk =>
    obtain ⟨j, hj⟩ := Int.eq_ofNat_of_zero_le (show 0 ≤ 1 - 2 * k by omega)
    rw [hj, Int.toNat_natCast, show 2 * k - 1 = -(j : Int) by omega, zpow_neg, zpow_natCast,
      inv_mul_le_iff₀ (by positivity), decide_eq_true_iff, mul_comm ((10 : ℝ) ^ j)]
    norm_cast

/-- The test is `k - 1/2 ≤ y` for the decibels `y` it does not compute. -/
theorem leDb_iff {m : Nat} (hm : 0 < m) (f g : Nat) (k : Int) :
    leDb m f g k = true ↔ (k : ℝ) - 1 / 2 ≤ 20 * Real.logb 10 ((m : ℝ) / 2 ^ f) * 2 ^ g := by
  have hpos : (0 : ℝ) < (m / 2 ^ f) ^ (40 * 2 ^ g) := by positivity
  rw [leDb_iff_zpow_le, ← Real.rpow_intCast, ← Real.le_logb_iff_rpow_le (by norm_num) hpos, Real.logb_pow]
  push_cast
  constructor <;> intro h <;> linarith

theorem dbOf_spec {m : Nat} (hm : 0 < m) (f g : Nat) :
    let k : Int := (dbOf m f g).toInt
    let v : ℝ := 20 * Real.logb 10 ((m : ℝ) / 2 ^ f) * 2 ^ g
    (k = -32768 ∨ (k : ℝ) - 1 / 2 ≤ v) ∧ (k = 32767 ∨ v < (k : ℝ) + 1 / 2) := by
  intro k v
  have hdown (a b : Int) (hab : a ≤ b) (hb : leDb m f g b = true) : leDb m f g a = true := by
    rw [leDb_iff hm] at hb ⊢
    have hab' : (a : ℝ) ≤ b := Int.cast_le.mpr hab
    linarith
  obtain ⟨hlo, hhi, hpass, hfail⟩ := greatest_spec_above (lo := -32768) (fun a b _ => hdown a b) 16
  have hk : k = greatest (leDb m f g) (-32768) 16 := toInt_ofInt16 hlo (by omega)
  rw [← hk] at hlo hhi hpass hfail
  refine ⟨or_iff_not_imp_left.mpr fun hne => ?below, or_iff_not_imp_left.mpr fun hne => ?above⟩
  case below => exact (leDb_iff hm f g k).mp (hpass k (by omega) le_rfl)
  case above =>
    have hnext := mt (leDb_iff hm f g (k + 1)).mpr (Bool.eq_false_iff.mp (hfail (k + 1) (by omega) (by omega)))
    push_cast at hnext
    linarith

/-- Settles O42: the integer test is the comparison of the real decibels. -/
theorem decibelsCorrectlyRounded : Obligations.DecibelsCorrectlyRounded := fun _ hm => dbOf_spec hm _ _

/-! ## The gains of a pair (R244, R247) -/

theorem toInt_sat32_shrR (x : Int) (n : Nat) : (sat32 (shrR x n)).toInt = narrow32 ((x : Rat) / 2 ^ n) := by
  rw [sat32_toInt, shrR_eq_rnd, rnd_eq_floor, narrow32]

theorem toInt_gpWord (c : Config) (i j : Nat) :
    (gpWord c i j).toInt = narrow16 (((c.tGa i 0).toInt + (c.tGb j 0).toInt : Int) : Rat) :=
  (narrow16_intCast _).symm

theorem toInt_gcWord (c : Config) (i j : Nat) (gcp : Int) : (gcWord c i j gcp).toInt
    = narrow32 ((((c.tGa i 1).toInt + (c.tGb j 1).toInt) * gcp : Int) / 2 ^ c.qGamma) :=
  toInt_sat32_shrR _ _

/-! ## The registers `GP` and `GC` -/

section
variable (s : State) (p : I16) (g : I32)

theorem State.setGains_holds : (s.setGains p g).holds .gp 0 p.toInt ∧ (s.setGains p g).holds .gc 0 g.toInt :=
  ⟨(State.holds_setAll_of_ne (by decide)).mpr (s.holds_setAll Nat.one_pos rfl), State.holds_setAll _ Nat.one_pos rfl⟩

theorem State.setGains_writesOnly : WritesOnly [.gp, .gc] s (s.setGains p g) :=
  ((WritesOnly.refl _ s).setAll (by simp)).setAll (by simp)

end

/-! ## GAIN.QUANT (R241 to R245) -/

/-! ### The search (R244) -/

/-- A search whose candidates are visited by increasing key returns, of the best, the one of the lowest key. -/
theorem lt_argMax_of_key_lt {α β : Type} [LinearOrder β] (score : α → β) (d : α) (key : α → Nat) {l : List α}
    (hkey : l.Pairwise fun x y => key x < key y) {x : α} (hx : x ∈ l) (hlt : key x < key (argMax score d l)) :
    score x < score (argMax score d l) := by
  obtain ⟨before, after, hsplit, hfirst⟩ := argMax_first score d (List.ne_nil_of_mem hx)
  rw [hsplit] at hx hkey
  obtain ⟨-, htail, -⟩ := List.pairwise_append.mp hkey
  rcases List.mem_append.mp hx with hbefore | hrest
  · exact hfirst x hbefore
  · rcases List.mem_cons.mp hrest with heq | hafter
    · exact absurd (congrArg key heq) hlt.ne
    · exact absurd ((List.pairwise_cons.mp htail).1 x hafter) hlt.asymm

/-- The place of a pair of rows in the visiting order. -/
def pairKey (m : Nat × Nat) : Nat := 16 * m.1 + m.2

/-- By the default the two windows are the whole codebooks. -/
theorem gainPairs_cfg (t : CrossTerms) (gcp : Int) :
    gainPairs cfg t gcp = pairs (List.range' 0 8) (List.range' 0 16) := rfl

theorem mem_gainPairs {t : CrossTerms} {gcp : Int} {m : Nat × Nat} :
    m ∈ gainPairs cfg t gcp ↔ m.1 < 8 ∧ m.2 < 16 := by
  rw [gainPairs_cfg, mem_pairs, List.mem_range'_1, List.mem_range'_1]
  omega

theorem map_pairKey_gainPairs (t : CrossTerms) (gcp : Int) :
    (gainPairs cfg t gcp).map pairKey = List.range 128 := by
  rw [gainPairs_cfg]
  decide

theorem gainPairs_pairwise (t : CrossTerms) (gcp : Int) :
    (gainPairs cfg t gcp).Pairwise fun x y => pairKey x < pairKey y :=
  List.pairwise_map.mp (map_pairKey_gainPairs t gcp ▸ List.pairwise_lt_range)

/-- `J` of a pair of rows for the operands of a register file. -/
def rowScore (rs : Regs) (i j : Nat) : Rat := pairScore cfg (crossTerms cfg rs) (rs.int .gcp 0) (i, j)

/-- What R244 says of the pair chosen. -/
theorem gainPair_spec (rs : Regs) : ∃ (ia : Fin 8) (ib : Fin 16), gainPair cfg rs = (ia.val, ib.val)
    ∧ (∀ (i : Fin 8) (j : Fin 16), rowScore rs ia ib ≤ rowScore rs i j)
    ∧ ∀ (i : Fin 8) (j : Fin 16), 16 * i.val + j.val < 16 * ia.val + ib.val →
        rowScore rs ia ib < rowScore rs i j := by
  have hmem (i : Fin 8) (j : Fin 16) : (i.val, j.val) ∈ gainPairs cfg (crossTerms cfg rs) (rs.int .gcp 0) :=
    mem_gainPairs.mpr ⟨i.isLt, j.isLt⟩
  have hchosen : gainPair cfg rs
      = argMax (fun m => -rowScore rs m.1 m.2) (0, 0) (gainPairs cfg (crossTerms cfg rs) (rs.int .gcp 0)) := rfl
  obtain ⟨hia, hib⟩ := mem_gainPairs.mp (hchosen ▸ argMax_mem _ _ (List.ne_nil_of_mem (hmem 0 0)))
  refine ⟨⟨_, hia⟩, ⟨_, hib⟩, rfl, fun i j => ?least, fun i j hlt => ?first⟩
  case least =>
    have hle := le_argMax (fun m : Nat × Nat => -rowScore rs m.1 m.2) (0, 0) (hmem i j)
    rw [← hchosen] at hle
    exact neg_le_neg_iff.mp hle
  case first =>
    have hbetter := lt_argMax_of_key_lt (fun m : Nat × Nat => -rowScore rs m.1 m.2) (0, 0) pairKey
      (gainPairs_pairwise _ _) (hmem i j)
    rw [← hchosen] at hbetter
    exact neg_lt_neg_iff.mp (hbetter hlt)

/-- The exact product sum of two registers of 40 elements (R242). -/
def Regs.dot (rs : Regs) (u v : Reg) : Rat := ∑ n ∈ Finset.range 40, (rs.int u n * rs.int v n : Rat)

theorem crossTerms_eq (c : Config) (rs : Regs) : crossTerms c rs =
    { xy := rs.dot .x .y, yy := rs.dot .y .y, xz := rs.dot .x .z / 2 ^ c.qZ, yz := rs.dot .y .z / 2 ^ c.qZ
      zz := rs.dot .z .z / (2 ^ c.qZ * 2 ^ c.qZ) } := by
  have hdot (u v : Reg) : ((sumN (fun n => rs.int u n * rs.int v n) 40 : Int) : Rat) = rs.dot u v := by
    rw [sumN_eq_sum, Int.cast_sum]
    exact Finset.sum_congr rfl fun n _ => Int.cast_mul _ _
  simp only [crossTerms, val, hdot, two_mul, pow_add]

/-! ### The command -/

section
variable (s : State) (sf : Subframe) (p : I16) (g : I32) (wa wb : Nat) (u : I16)

/-- The two codewords of a pair written to the subframe's parameters. -/
def State.setGainCodewords : State :=
  (s.setFrom .prm (8 + 5 * sf.idx) 1 fun _ => BitVec.ofNat 16 wa).setFrom .prm (9 + 5 * sf.idx) 1
    fun _ => BitVec.ofNat 16 wb

theorem State.setGainCodewords_prmHolds (ha : wa < 2 ^ 16) (hb : wb < 2 ^ 16) :
    let t := s.setGainCodewords sf wa wb
    t.prmHolds (8 + 5 * sf.idx) wa ∧ t.prmHolds (9 + 5 * sf.idx) wb := by
  have hidx : sf.idx ≤ 1 := by cases sf <;> decide
  exact ⟨State.prmHolds_of_regsKept (setFrom_regsKept _ _ _ _ _) (by simp [part])
      (State.prmHolds_setFrom _ (by omega) ha),
    State.prmHolds_setFrom _ (by omega) hb⟩

theorem State.setGainCodewords_regsKept :
    regsKept (part .prm (8 + 5 * sf.idx) 2) s (s.setGainCodewords sf wa wb) :=
  ((regsKept.refl _ s).setFrom fun _ hlo hhi => ⟨rfl, by omega, by omega⟩).setFrom
    fun _ hlo hhi => ⟨rfl, by omega, by omega⟩

/-- What `GAIN.QUANT` writes (R245): the gains `p` and `g`, their codewords `wa` and `wb`, and `u` pushed. -/
def State.gainsQuantised : State := ((s.setGains p g).setGainCodewords sf wa wb).pushEncGpe u

theorem State.gainsQuantised_regs :
    (s.gainsQuantised sf p g wa wb u).regs = ((s.setGains p g).setGainCodewords sf wa wb).regs :=
  State.pushEncGpe_regs _ _

theorem State.gainsQuantised_holds : let t := s.gainsQuantised sf p g wa wb u
    t.holds .gp 0 p.toInt ∧ t.holds .gc 0 g.toInt := by
  have hkept := (s.setGains p g).setGainCodewords_regsKept sf wa wb
  obtain ⟨hgp, hgc⟩ := s.setGains_holds p g
  simp only [State.holds, State.gainsQuantised_regs]
  exact ⟨State.holds_of_regsKept hkept (by simp [part]) hgp, State.holds_of_regsKept hkept (by simp [part]) hgc⟩

theorem State.gainsQuantised_prmHolds (ha : wa < 2 ^ 16) (hb : wb < 2 ^ 16) :
    let t := s.gainsQuantised sf p g wa wb u
    t.prmHolds (8 + 5 * sf.idx) wa ∧ t.prmHolds (9 + 5 * sf.idx) wb := by
  simp only [State.prmHolds, State.gainsQuantised_regs]
  exact (s.setGains p g).setGainCodewords_prmHolds sf wa wb ha hb

theorem State.gainsQuantised_regsKept :
    regsKept (fun reg k => wholly [.gp, .gc] reg k ∨ part .prm (8 + 5 * sf.idx) 2 reg k) s
      (s.gainsQuantised sf p g wa wb u) := by
  obtain ⟨-, -, hgains, -⟩ := s.setGains_writesOnly p g
  have hcodewords := (s.setGains p g).setGainCodewords_regsKept sf wa wb
  simp only [regsKept, State.gainsQuantised_regs]
  exact (hgains.mono fun _ _ h => .inl h).trans (hcodewords.mono fun _ _ h => .inr h)

theorem State.gainsQuantised_enc :
    (s.gainsQuantised sf p g wa wb u).enc = { s.enc with gpeHist := histPushed s.enc.gpeHist u } := by
  rw [State.gainsQuantised, State.pushEncGpe, State.setGainCodewords, State.setFrom_enc, State.setFrom_enc,
    State.setGains_enc]

theorem State.gainsQuantised_frame : let t := s.gainsQuantised sf p g wa wb u
    t.dec = s.dec ∧ controlKept s t ∧ bufsKept nowhere s t
      ∧ regsKept (fun reg k => wholly [.gp, .gc] reg k ∨ part .prm (8 + 5 * sf.idx) 2 reg k) s t := by
  have hregs := s.gainsQuantised_regsKept sf p g wa wb u
  simpa [State.gainsQuantised, State.setGainCodewords, controlKept, modelKept, bufsKept] using hregs

end

theorem exec_gainQuant {s : State} {sf : Subframe} (hs : s.ready .e [.all .x, .all .y, .all .z, .all .gcp] = true)
    {i : Fin 8} {j : Fin 16} (hpair : gainPair cfg s.regs = (i.val, j.val)) :
    exec (.gainQuant sf) s = .next (s.gainsQuantised sf (gpWord cfg i j) (gcWord cfg i j (s.regs.int .gcp 0))
      (cfg.gaImap.symm i) (cfg.gbImap.symm j) (gammaDb cfg i j)) := by
  have hga : gaMap cfg i = cfg.gaImap.symm i := dif_pos i.isLt
  have hgb : gbMap cfg j = cfg.gbImap.symm j := dif_pos j.isLt
  have heffect : gainQuant cfg sf s = s.gainsQuantised sf (gpWord cfg i j) (gcWord cfg i j (s.regs.int .gcp 0))
      (cfg.gaImap.symm i) (cfg.gbImap.symm j) (gammaDb cfg i j) := by
    rw [gainQuant, hpair, hga, hgb, State.gainsQuantised, State.setGainCodewords]
  exact (checked_of_ready hs rfl).trans (congrArg Host.Outcome.next heffect)

/-- Settles O38: the search visits the whole codebooks row by row, by the statement's score. -/
theorem gainQuantMinimises : Obligations.GainQuantMinimises := by
  intro s sf hs dot qz gcp gam gp gc score
  have hscore : rowScore s.regs = score := by
    funext i j
    rw [rowScore, crossTerms_eq]
    rfl
  obtain ⟨ia, ib, hpair, hleast, hfirst⟩ := gainPair_spec s.regs
  rw [hscore] at hleast hfirst
  have hholds := s.gainsQuantised_holds sf (gpWord cfg ia ib) (gcWord cfg ia ib gcp) (cfg.gaImap.symm ia)
    (cfg.gbImap.symm ib) (gammaDb cfg ia ib)
  rw [toInt_gpWord, toInt_gcWord] at hholds
  obtain ⟨hgp, hgc⟩ := hholds
  obtain ⟨hnew, hold⟩ := elD_histPushed s.enc.gpeHist (gammaDb cfg ia ib)
  refine ⟨_, ia, ib, exec_gainQuant hs hpair, hleast, hfirst, hgp, hgc,
    ⟨_, _, cfg.gaImap.apply_symm_apply ia, cfg.gbImap.apply_symm_apply ib,
      s.gainsQuantised_prmHolds sf _ _ _ _ _ (by omega) (by omega)⟩,
    ?pushed, ?shifted, ?enc, s.gainsQuantised_frame sf _ _ _ _ _⟩
  case pushed =>
    rw [State.gainsQuantised_enc]
    exact hnew
  case shifted =>
    rw [State.gainsQuantised_enc]
    exact hold
  case enc => rw [State.gainsQuantised_enc]

/-! ## GAIN.DEC (R246 to R248) -/

/-- What `GAIN.DEC` leaves on either branch, but for `FCTL` and `FSTAT`: the gains `p` and `g` in the
registers and the gain state, and `u` pushed. -/
structure DecGainsLeft (s : State) (p g : Int) (u : I16) (t : State) : Prop where
  gp : t.holds .gp 0 p
  gc : t.holds .gc 0 g
  gpRaw : t.dec.gpRaw.toInt = p
  gpBnd : t.dec.gpBnd.toInt = min 13107 (max 3277 p)
  gcLast : t.dec.gc.toInt = g
  pushed : t.dec.gpeHist.elD 0 0 = u
  shifted : ∀ k < 3, t.dec.gpeHist.elD (k + 1) 0 = s.dec.gpeHist.elD k 0
  dec : t.dec = { s.dec with
    gpRaw := t.dec.gpRaw, gpBnd := t.dec.gpBnd, gc := t.dec.gc, gpeHist := t.dec.gpeHist }
  enc : t.enc = s.enc
  regs : regsKept (wholly [.gp, .gc]) s t
  bufs : bufsKept nowhere s t

/-- The bounded gain is within the bounds of R8, so that it is stored as it is. -/
theorem toInt_sat16_boundedGain (x : Int) : (sat16 (boundedGain cfg x)).toInt = min 13107 (max 3277 x) := by
  rw [boundedGain_eq]
  exact toInt_sat16_of_bounds (by omega) (by omega)

theorem setDecGains_left (s : State) (p : I16) (g : I32) (u : I16) :
    DecGainsLeft s p.toInt g.toInt u (State.setDecGains cfg s p g u) := by
  obtain ⟨hgp, hgc⟩ := s.setGains_holds p g
  obtain ⟨hpushed, hshifted⟩ := elD_histPushed s.dec.gpeHist u
  obtain ⟨-, -, hregs, hbufs⟩ := s.setGains_writesOnly p g
  exact { gp := hgp, gc := hgc, gpRaw := rfl, gpBnd := toInt_sat16_boundedGain _, gcLast := rfl, pushed := hpushed
          shifted := hshifted, dec := rfl, enc := rfl, regs := hregs, bufs := hbufs }

theorem DecGainsLeft.raiseFlag {s t : State} {p g : Int} {u : I16} (h : DecGainsLeft s p g u t) (fl : StatFlag)
    (b : Bool) : DecGainsLeft s p g u (t.raiseFlag fl b) := by
  unfold State.raiseFlag
  split
  · exact ⟨h.gp, h.gc, h.gpRaw, h.gpBnd, h.gcLast, h.pushed, h.shifted, h.dec, h.enc, h.regs, h.bufs⟩
  · exact h

section
variable {s : State} {sf : Subframe}

theorem exec_gainDec_of_erased (hs : s.ready .d [] = true) (hbfi : s.bfi = true) :
    exec (.gainDec sf) s = .next (gainDecErased cfg s) := by
  have hready : s.ready .d (gainDecNeeds sf s) = true := by rwa [gainDecNeeds, hbfi, if_pos rfl]
  have hrange : gainDecInRange sf s = true := by rw [gainDecInRange, hbfi, Bool.true_or]
  have heffect : gainDec cfg sf s = gainDecErased cfg s := by rw [gainDec, hbfi, if_pos rfl]
  exact (checked_of_ready hready hrange).trans (congrArg Host.Outcome.next heffect)

theorem gaImap_of_fin (c : Config) (i : Fin 8) : gaImap c i = c.gaImap i := dif_pos i.isLt

theorem gbImap_of_fin (c : Config) (i : Fin 16) : gbImap c i = c.gbImap i := dif_pos i.isLt

/-- What a good frame leaves, by the rows its codewords name (R247). -/
def State.pairGainsSet (s : State) (i j : Nat) : State :=
  State.setDecGains cfg s (gpWord cfg i j) (gcWord cfg i j (s.regs.int .gcp 0)) (gammaDb cfg i j)

theorem exec_gainDec_of_good {pa : Fin 8} {pb : Fin 16}
    (hs : s.ready .d [.all .gcp, needPrm (8 + 5 * sf.idx) 2] = true) (hbfi : s.bfi = false)
    (hpa : s.regs.nat .prm (8 + 5 * sf.idx) = pa) (hpb : s.regs.nat .prm (9 + 5 * sf.idx) = pb) :
    exec (.gainDec sf) s = .next (s.pairGainsSet (cfg.gaImap pa) (cfg.gbImap pb)) := by
  have hwidth : prmWidth (8 + 5 * sf.idx) = 3 ∧ prmWidth (9 + 5 * sf.idx) = 4 := by cases sf <;> decide
  have hready : s.ready .d (gainDecNeeds sf s) = true := by rwa [gainDecNeeds, hbfi, if_neg Bool.false_ne_true]
  have hrange : gainDecInRange sf s = true := by
    have ha : (pa : Nat) < 2 ^ 3 := pa.isLt
    have hb : (pb : Nat) < 2 ^ 4 := pb.isLt
    rw [gainDecInRange, hbfi, Regs.prmInRange, Regs.prmInRange, hwidth.1, hwidth.2, hpa, hpb,
      decide_eq_true ha, decide_eq_true hb]
    rfl
  have heffect : gainDec cfg sf s = s.pairGainsSet (cfg.gaImap pa) (cfg.gbImap pb) := by
    rw [gainDec, hbfi, if_neg Bool.false_ne_true, gainDecGood, hpa, hpb, gaImap_of_fin, gbImap_of_fin,
      State.pairGainsSet]
  exact (checked_of_ready hready hrange).trans (congrArg Host.Outcome.next heffect)

end

/-- Settles O39: the codewords are within the tables, and the gains are those of the rows they name. -/
theorem gainDecGoodFrame : Obligations.GainDecGoodFrame := by
  intro s sf pa pb hs hbfi hpa hpb ia ib gam
  have hleft : DecGainsLeft s _ _ (gammaDb cfg ia ib) (s.pairGainsSet ia ib) := setDecGains_left s _ _ _
  exact ⟨_, _, _, exec_gainDec_of_good hs hbfi hpa hpb, hleft.gp, hleft.gc, toInt_gpWord cfg ia ib,
    toInt_gcWord cfg ia ib _, hleft.gpRaw, hleft.gpBnd, hleft.gcLast, hleft.pushed, hleft.shifted, hleft.dec,
    hleft.enc, ⟨rfl, rfl, rfl, rfl⟩, hleft.regs, hleft.bufs⟩

/-! ### The erased frame (R248, R249) -/

/-- A part of an integer, rounded, lies between zero and the integer. -/
theorem rnd_mul_bounds {a : Rat} (h0 : 0 ≤ a) (h1 : a ≤ 1) (x : Int) :
    min x 0 ≤ rnd (a * x) ∧ rnd (a * x) ≤ max x 0 := by
  rw [rnd_eq_floor, Int.le_floor, ← Int.lt_add_one_iff, Int.floor_lt]
  push_cast
  rcases le_total (x : Rat) 0 with hx | hx
  · rw [min_eq_left hx, max_eq_right hx]
    constructor <;> nlinarith
  · rw [min_eq_right hx, max_eq_left hx]
    constructor <;> nlinarith

theorem toInt_erasedGp (w : I16) : (erasedGp cfg w).toInt = min ⌊(9 / 10 : Rat) * w.toInt + 1 / 2⌋ 14746 := by
  have hcap : q (9 / 10) cfg.qGp = 14746 := by
    show ⌊(9 / 10 * 2 ^ 14 + 1 / 2 : Rat)⌋ = 14746
    norm_num
  have hword := toInt_bounds16 w
  have hpart := rnd_mul_bounds (a := 9 / 10) (by norm_num) (by norm_num) w.toInt
  rw [erasedGp, hcap, toInt_sat16_of_bounds (by omega) (by omega), rnd_eq_floor]

theorem toInt_erasedGc (w : I32) : (erasedGc w).toInt = ⌊(98 / 100 : Rat) * w.toInt + 1 / 2⌋ := by
  have hword := toInt_bounds32 w
  have hpart := rnd_mul_bounds (a := 49 / 50) (by norm_num) (by norm_num) w.toInt
  rw [erasedGc, toInt_ofInt32 (by omega) (by omega), rnd_eq_floor]
  norm_num

theorem toInt_erasedGpe (hist : Vec I16 4) : let e (k : Nat) : Int := (hist.elD k 0).toInt
    (erasedGpe cfg hist).toInt = max (⌊((e 0 + e 1 + e 2 + e 3 : Int) : Rat) / 4 + 1 / 2⌋ - 4096) (-14336) := by
  intro e
  have hstep : q cfg.gpeEraseDb cfg.qGpe = 4096 := by
    show ⌊(4 * 2 ^ 10 + 1 / 2 : Rat)⌋ = 4096
    norm_num
  have hfloor : q cfg.gpeFloorDb cfg.qGpe = -14336 := by
    show ⌊(-14 * 2 ^ 10 + 1 / 2 : Rat)⌋ = -14336
    norm_num
  have hsum : sumN e 4 = e 0 + e 1 + e 2 + e 3 := by simp only [sumN, zero_add]
  have hmean : shrR (sumN e 4) 2 = ⌊((e 0 + e 1 + e 2 + e 3 : Int) : Rat) / 4 + 1 / 2⌋ := by
    rw [hsum, shrR_eq_rnd, rnd_eq_floor]
    norm_num
  have hword (k : Nat) : e k ≤ 32767 := (toInt_bounds16 _).2
  have htotal : e 0 + e 1 + e 2 + e 3 ≤ 4 * 32767 := by linarith [hword 0, hword 1, hword 2, hword 3]
  have hle : shrR (sumN e 4) 2 ≤ 32767 := by
    rw [hsum, shrR, if_neg two_ne_zero]
    omega
  have hgpe : erasedGpe cfg hist = sat16 (max (shrR (sumN e 4) 2 - 4096) (-14336)) := by
    rw [erasedGpe, hstep, hfloor]
  rw [hgpe, toInt_sat16_of_bounds (by omega) (by omega), hmean]

theorem gainDecErased_left (s : State) : DecGainsLeft s (erasedGp cfg s.dec.gpRaw).toInt (erasedGc s.dec.gc).toInt
    (erasedGpe cfg s.dec.gpeHist) (gainDecErased cfg s) :=
  (setDecGains_left s _ _ _).raiseFlag .conceal true

theorem gainDecErased_control (s : State) :
    (gainDecErased cfg s).flag .conceal = true ∧ controlKeptBut .conceal s (gainDecErased cfg s) := by
  obtain ⟨hflag, hcontrol, -⟩ := (s.setGains_writesOnly (erasedGp cfg s.dec.gpRaw) (erasedGc s.dec.gc)).raiseFlag
    .conceal true
  rw [Bool.or_true] at hflag
  exact ⟨hflag, hcontrol⟩

/-- Settles O40: the attenuated gains and the lowered average fit their words, so that only the stated caps
act. -/
theorem gainDecErasedFrame : Obligations.GainDecErasedFrame := by
  intro s sf hs hbfi hist
  have hleft := gainDecErased_left s
  obtain ⟨hflag, hcontrol⟩ := gainDecErased_control s
  exact ⟨_, _, _, exec_gainDec_of_erased hs hbfi, hleft.gp, hleft.gc, toInt_erasedGp _, toInt_erasedGc _,
    hleft.gpRaw, hleft.gpBnd, hleft.gcLast, (congrArg BitVec.toInt hleft.pushed).trans (toInt_erasedGpe _),
    hleft.shifted, hleft.dec, hleft.enc, hflag, hcontrol, hleft.regs, hleft.bufs⟩

theorem abs_le_of_between_zero {r x : Int} (h : min x 0 ≤ r ∧ r ≤ max x 0) : |r| ≤ |x| := by
  rcases abs_cases x with ⟨hx, hsign⟩ | ⟨hx, hsign⟩ <;> rw [hx, abs_le] <;> omega

theorem abs_erasedGp_le (w : I16) : |(erasedGp cfg w).toInt| ≤ |w.toInt| := by
  have hpart := rnd_mul_bounds (a := 9 / 10) (by norm_num) (by norm_num) w.toInt
  rw [rnd_eq_floor] at hpart
  rw [toInt_erasedGp]
  exact abs_le_of_between_zero (by omega)

theorem abs_erasedGc_le (w : I32) : |(erasedGc w).toInt| ≤ |w.toInt| := by
  rw [toInt_erasedGc]
  exact abs_le_of_between_zero (rnd_mul_bounds (by norm_num) (by norm_num) w.toInt)

/-- Settles O41: each gain left is a rounded part of the one before. -/
theorem erasedGainsDecay : Obligations.ErasedGainsDecay := by
  intro s t sf hs hbfi hexec
  obtain rfl : gainDecErased cfg s = t := Host.Outcome.next.inj ((exec_gainDec_of_erased hs hbfi).symm.trans hexec)
  have hleft := gainDecErased_left s
  obtain ⟨-, hgp⟩ := hleft.gp
  obtain ⟨-, hgc⟩ := hleft.gc
  rw [hgp, hgc]
  exact ⟨abs_erasedGp_le _, abs_erasedGc_le _, hleft.gpRaw, hleft.gcLast⟩

end Sys2Proof.Machine

/-! # O43 to O46: the filters

A command that writes a subframe computes each sample on the buffers as the samples before it left them
(R62). Where the value reads no sample at or after its own, the buffers the command leaves serve as well:
`State.at_fillSubframe` says so once, and the recursions of R265 become equations about the final buffers. -/

namespace Sys2Proof.Machine

-- One proof at a time: proofs elaborated side by side each hold a thread and its stack (as in the tests).
set_option Elab.async false

/-! ## A subframe written in order (R62, R271) -/

/-- From `s` to `t` nothing is written but subframe `sf` of one buffer. -/
def WritesSubframe (b : Buf) (sf : Subframe) (s t : State) : Prop :=
  controlKept s t ∧ channelKept s t ∧ regsKept (wholly []) s t ∧ bufsKept (subframeOf b sf) s t

/-- `bs'` agrees with `bs` on every sample but those of buffer `b` from index `i` on. -/
def Buffers.AgreeBefore (b : Buf) (i : Int) (bs bs' : Buffers) : Prop :=
  ∀ b' j, (b' = b → j < i) → bs'.read b' j = bs.read b' j

section
variable {b b' : Buf} {i j : Int} {bs bs' : Buffers} {sf : Subframe} {f : Buffers → Nat → I16} {n : Nat}

theorem Buffers.AgreeBefore.at_of_lt (h : Buffers.AgreeBefore b i bs bs') (hj : j < i) :
    bs'.at b j = bs.at b j :=
  Buffers.at_congr (h b j fun _ => hj)

theorem Buffers.AgreeBefore.at_of_ne (h : Buffers.AgreeBefore b i bs bs') (hb : b' ≠ b) :
    bs'.at b' = bs.at b' :=
  funext fun j => Buffers.at_congr (h b' j fun heq => absurd heq hb)

theorem State.fillSubframe_writesSubframe (s : State) : WritesSubframe b sf s (s.fillSubframe b sf f) :=
  ⟨⟨rfl, rfl, rfl, rfl⟩, ⟨rfl, rfl⟩, fun _ _ _ => rfl,
    fun _ _ hout => Buffers.read_fill_of_outside _ _ _ _ _ hout⟩

theorem State.fillSubframe_at_of_ne (s : State) (hb : b' ≠ b) :
    (s.fillSubframe b sf f).bufs.at b' = s.bufs.at b' :=
  funext fun _ => Buffers.at_congr (Buffers.read_fill_of_outside _ _ _ _ _ fun hin => hb hin.1)

/-- A sample whose value reads no sample at or after its own is that value on the buffers left at the end. -/
theorem State.at_fillSubframe (s : State) (hn : n < 40)
    (hf : ∀ bs bs' : Buffers, Buffers.AgreeBefore b (sfBase sf + n) bs bs' → f bs' n = f bs n) :
    (s.fillSubframe b sf f).bufs.at b (sfBase sf + n) = (f (s.fillSubframe b sf f).bufs n).toInt := by
  have hwritten : (s.fillSubframe b sf f).bufs.at b (sfBase sf + n)
      = (f (Buffers.fill b (sfBase sf) f n s.bufs) n).toInt :=
    Buffers.at_fill _ _ _ _ hn (b.inBounds_subframe sf hn)
  rw [hwritten, hf (Buffers.fill b (sfBase sf) f n s.bufs) (s.fillSubframe b sf f).bufs
    fun _ _ hbefore => Buffers.read_fill_prefix _ _ _ _ hn.le hbefore]

end

/-! ## The two forms of R265 -/

section
variable (qLp : Nat) (a : Nat → Int) (x : Int) (k : Int)

theorem toInt_firSample (u : Int → Int) : (firSample qLp a u k).toInt
    = narrow16 (((u k * 2 ^ qLp + ∑ i ∈ Finset.range 10, a i * u (k - 1 - i) : Int) : Rat) / 2 ^ qLp) := by
  rw [firSample, toInt_sat16_shrR, sumN_eq_sum]

theorem toInt_iirSample (y : Int → Int) : (iirSample qLp a x y k).toInt
    = narrow16 (((x * 2 ^ qLp - ∑ i ∈ Finset.range 10, a i * y (k - 1 - i) : Int) : Rat) / 2 ^ qLp) := by
  rw [iirSample, toInt_sat16_shrR, sumN_eq_sum]

/-- The all-pole form reads its earlier outputs alone. -/
theorem iirSample_congr {y y' : Int → Int} (h : ∀ j < k, y' j = y j) :
    iirSample qLp a x y' k = iirSample qLp a x y k := by
  have hterm (i : Nat) : a i * y' (k - 1 - i) = a i * y (k - 1 - i) := by rw [h _ (by omega)]
  simp only [iirSample, hterm]

end

section
variable {s : State} {sf : Subframe} {n : Nat}

/-! ## FLT.SYN (R267) -/

theorem exec_fltSyn (hs : s.ready .d [needAq sf] = true) : exec (.fltSyn sf) s = .next (fltSyn cfg sf s) :=
  checked_of_ready hs rfl

theorem at_fltSyn (c : Config) (s : State) (sf : Subframe) (hn : n < 40) :
    (fltSyn c sf s).bufs.at .speech (sfBase sf + n)
      = (iirSample c.qLp (s.regs.aqAt sf) (s.bufs.at .exc (sfBase sf + n)) ((fltSyn c sf s).bufs.at .speech)
          (sfBase sf + n)).toInt := by
  refine (s.at_fillSubframe hn fun bs bs' hagree => ?_).trans ?_
  · rw [hagree.at_of_ne (b' := .exc) (by decide), iirSample_congr _ _ _ _ fun j hj => hagree.at_of_lt hj]
  · rw [s.fillSubframe_at_of_ne (b' := .exc) (by decide)]
    rfl

/-! ## FLT.RES (R268) -/

theorem exec_fltRes (hs : s.ready .e [needAq sf] = true) : exec (.fltRes sf) s = .next (fltRes cfg sf s) :=
  checked_of_ready hs rfl

theorem at_fltRes (c : Config) (s : State) (sf : Subframe) (hn : n < 40) :
    (fltRes c sf s).bufs.at .exc (sfBase sf + n)
      = (firSample c.qLp (s.regs.aqAt sf) (s.bufs.at .sig) (codedIndex sf n)).toInt := by
  refine (s.at_fillSubframe hn fun bs bs' hagree => ?_).trans ?_
  · rw [hagree.at_of_ne (b' := .sig) (by decide)]
  · rw [s.fillSubframe_at_of_ne (b' := .sig) (by decide)]

/-! ## FLT.WGT (R269) -/

theorem exec_fltWgt (hs : s.ready .e [needAq sf] = true) : exec (.fltWgt sf) s = .next (fltWgt cfg sf s) :=
  checked_of_ready hs rfl

theorem at_fltWgt (c : Config) (s : State) (sf : Subframe) (hn : n < 40) :
    (fltWgt c sf s).bufs.at .wsp (sfBase sf + n)
      = (iirSample c.qLp (wgtDen c s.regs sf)
          (firSample c.qLp (bw (s.regs.aqAt sf) c.gammaWNum) (s.bufs.at .sig) (codedIndex sf n)).toInt
          ((fltWgt c sf s).bufs.at .wsp) (sfBase sf + n)).toInt := by
  refine (s.at_fillSubframe hn fun bs bs' hagree => ?_).trans ?_
  · rw [hagree.at_of_ne (b' := .sig) (by decide),
      iirSample_congr _ _ _ _ fun j hj => hagree.at_of_lt hj]
  · rw [s.fillSubframe_at_of_ne (b' := .sig) (by decide)]
    rfl

theorem bw_eq (a : Nat → Int) (gamma : Rat) (i : Nat) : bw a gamma i = narrow16 ((a i : Rat) * gamma ^ (i + 1)) :=
  toInt_sat16_rnd _

theorem wgtDen_eq (c : Config) (rs : Regs) (sf : Subframe) (i : Nat) : wgtDen c rs sf i
    = narrow16 ((wgtCoef c rs sf (i + 1) : Rat) * c.gammaWDen ^ (i + 1)
        - c.wTilt * (wgtCoef c rs sf i : Rat) * c.gammaWDen ^ i) :=
  toInt_sat16_rnd _

end

/-- Settles O44: the filter reads `SPEECH` only before the sample it writes. -/
theorem fltSynRecursion : Obligations.FltSynRecursion := fun s sf hs =>
  ⟨fltSyn cfg sf s, exec_fltSyn hs, fun _ hn => (at_fltSyn cfg s sf hn).trans (toInt_iirSample ..),
    s.fillSubframe_writesSubframe⟩

/-- Settles O45: the filter reads `SIG`, which it does not write. -/
theorem fltResResidual : Obligations.FltResResidual := fun s sf hs =>
  ⟨fltRes cfg sf s, exec_fltRes hs, fun _ hn => (at_fltRes cfg s sf hn).trans (toInt_firSample ..),
    s.fillSubframe_writesSubframe⟩

/-- Settles O46: the residual form over `SIG`, then the all-pole form over the earlier samples of `WSP`. -/
theorem fltWgtWeights : Obligations.FltWgtWeights := by
  intro s sf hs a num den
  have hnum : bw (s.regs.aqAt sf) cfg.gammaWNum = num := funext fun i => bw_eq _ _ i
  have hden : wgtDen cfg s.regs sf = den := funext fun i => wgtDen_eq cfg s.regs sf i
  refine ⟨fltWgt cfg sf s, exec_fltWgt hs, fun n hn => ?_, s.fillSubframe_writesSubframe⟩
  rw [at_fltWgt cfg s sf hn, hnum, hden, toInt_iirSample, toInt_firSample]
  rfl

/-! ## FLT.HP (R270)

The section's inputs and outputs as signals on all indices from -2 on: before the frame stands the memory. -/

/-- The values `now` of the frame from index 0 on, `m1` at index -1 and `m2` before it. -/
def withPast (now : Nat → Int) (m1 m2 : Int) (k : Int) : Int :=
  if 0 ≤ k then now k.toNat else if k = -1 then m1 else m2

section
variable (now : Nat → Int) (m1 m2 : Int) (n : Nat)

theorem withPast_natCast : withPast now m1 m2 n = now n := by
  rw [withPast, if_pos (by omega), Int.toNat_natCast]

theorem delayed_eq_withPast (j : Nat) : delayed now m1 m2 n j = withPast now m1 m2 (n - j) := by
  rcases Nat.lt_trichotomy j (n + 1) with hframe | rfl | hpast
  · rw [delayed, if_pos (by omega), withPast, if_pos (by omega), Int.toNat_sub]
  · rw [delayed, if_neg (by omega), if_pos rfl, withPast, if_neg (by omega), if_pos (by omega)]
  · rw [delayed, if_neg (by omega), if_neg (by omega), withPast, if_neg (by omega), if_neg (by omega)]

/-- A value before the present one depends on the frame before the present alone. -/
theorem delayed_congr {now now' : Nat → Int} (h : ∀ k < n, now' k = now k) {j : Nat} (hj : 1 ≤ j) :
    delayed now' m1 m2 n j = delayed now m1 m2 n j := by
  unfold delayed
  split
  · exact h _ (by omega)
  · rfl

end

/-- The outputs of a section as integers. -/
def outputs (y : List I16) (k : Nat) : Int := (y.getD k 0).toInt

section
variable (b : Biquad) (qHp : Nat) (mem x : Nat → Int)

/-- Output `n` of a section, from the outputs `y` before it (R270). -/
def biquadNext (y : List I16) (n : Nat) : I16 :=
  let X (j : Nat) : Int := delayed x (mem 0) (mem 1) n j
  let Y (j : Nat) : Int := delayed (outputs y) (mem 2) (mem 3) n j
  sat16 (shrR (b.b0.toInt * X 0 + b.b1.toInt * X 1 + b.b2.toInt * X 2
    - b.a1.toInt * Y 1 - b.a2.toInt * Y 2) qHp)

theorem biquad_eq_gen : biquad b qHp mem x = gen (biquadNext b qHp mem x) 80 := rfl

/-- A section computes an output from the outputs before it alone. -/
theorem biquadNext_congr {y y' : List I16} {n : Nat} (h : ∀ k < n, outputs y' k = outputs y k) :
    biquadNext b qHp mem x y' n = biquadNext b qHp mem x y n := by
  simp only [biquadNext, delayed_congr _ _ n h (le_refl 1), delayed_congr _ _ n h one_le_two]

theorem toInt_biquadNext (y : List I16) (n : Nat) :
    let X := withPast x (mem 0) (mem 1)
    let Y := withPast (outputs y) (mem 2) (mem 3)
    (biquadNext b qHp mem x y n).toInt
      = narrow16 (((b.b0.toInt * X n + b.b1.toInt * X (n - 1) + b.b2.toInt * X (n - 2)
        - b.a1.toInt * Y (n - 1) - b.a2.toInt * Y (n - 2) : Int) : Rat) / 2 ^ qHp) := by
  simp only [biquadNext, toInt_sat16_shrR, delayed_eq_withPast, Nat.cast_zero, sub_zero, Nat.cast_one,
    Nat.cast_ofNat]

/-- R270: the difference equation of a section, over its inputs and outputs with their memory before. -/
theorem outputs_biquad {n : Nat} (hn : n < 80) :
    let y := outputs (biquad b qHp mem x)
    let X := withPast x (mem 0) (mem 1)
    let Y := withPast y (mem 2) (mem 3)
    y n = narrow16 (((b.b0.toInt * X n + b.b1.toInt * X (n - 1) + b.b2.toInt * X (n - 2)
      - b.a1.toInt * Y (n - 1) - b.a2.toInt * Y (n - 2) : Int) : Rat) / 2 ^ qHp) := by
  intro y X Y
  have hearlier (k : Nat) (hk : k < n) :
      outputs (gen (biquadNext b qHp mem x) n) k = outputs (biquad b qHp mem x) k :=
    congrArg BitVec.toInt (gen_getD_of_lt _ hk hn.le 0)
  calc y n = (biquadNext b qHp mem x (gen (biquadNext b qHp mem x) n) n).toInt :=
        congrArg BitVec.toInt (gen_getD _ hn 0)
    _ = (biquadNext b qHp mem x (biquad b qHp mem x) n).toInt := by
        rw [biquadNext_congr b qHp mem x hearlier]
    _ = _ := toInt_biquadNext b qHp mem x _ n

end

/-- The memory after the frame holds the last two inputs and outputs, which fit its words. -/
theorem hpMemory_spec {x : Nat → Int} (y : List I16) (hx : ∀ n, -32768 ≤ x n ∧ x n ≤ 32767) :
    let mem (k : Nat) : Int := ((hpMemory x y).elD k 0).toInt
    mem 0 = x 79 ∧ mem 1 = x 78 ∧ mem 2 = outputs y 79 ∧ mem 3 = outputs y 78 := by
  have hy (k : Nat) : -32768 ≤ outputs y k ∧ outputs y k ≤ 32767 := toInt_bounds16 _
  have hword {v : Int} (hv : -32768 ≤ v ∧ v ≤ 32767) : (BitVec.ofInt 32 v).toInt = v :=
    toInt_ofInt32 (by omega) (by omega)
  exact ⟨hword (hx 79), hword (hx 78), hword (hy 79), hword (hy 78)⟩

/-- R270: a section of memory `before` runs over the inputs of the frame and leaves the memory `after`; `x` and
`y` are its inputs and outputs from index -2 on. -/
structure RunsSection (b : Biquad) (before after input : Nat → Int) (x y : Int → Int) : Prop where
  in1 : x (-1) = before 0
  in2 : x (-2) = before 1
  out1 : y (-1) = before 2
  out2 : y (-2) = before 3
  run : ∀ n : Nat, n < 80 → x n = input n
    ∧ y n = narrow16 (((b.b0.toInt * x n + b.b1.toInt * x (n - 1) + b.b2.toInt * x (n - 2)
        - b.a1.toInt * y (n - 1) - b.a2.toInt * y (n - 2) : Int) : Rat) / 2 ^ cfg.qHp)
  lastIn1 : after 0 = x 79
  lastIn2 : after 1 = x 78
  lastOut1 : after 2 = y 79
  lastOut2 : after 3 = y 78

theorem biquad_runsSection (b : Biquad) (mem : Nat → Int) {x : Nat → Int}
    (hx : ∀ n, -32768 ≤ x n ∧ x n ≤ 32767) : let y := biquad b cfg.qHp mem x
    RunsSection b mem (fun k => ((hpMemory x y).elD k 0).toInt) x (withPast x (mem 0) (mem 1))
      (withPast (outputs y) (mem 2) (mem 3)) := by
  intro y
  obtain ⟨hin1, hin2, hout1, hout2⟩ := hpMemory_spec y hx
  exact {
    in1 := rfl, in2 := rfl, out1 := rfl, out2 := rfl
    run := fun n hn => ⟨withPast_natCast .., (withPast_natCast ..).trans (outputs_biquad b cfg.qHp mem x hn)⟩
    lastIn1 := hin1.trans (withPast_natCast x _ _ 79).symm
    lastIn2 := hin2.trans (withPast_natCast x _ _ 78).symm
    lastOut1 := hout1.trans (withPast_natCast (outputs y) _ _ 79).symm
    lastOut2 := hout2.trans (withPast_natCast (outputs y) _ _ 78).symm }

theorem exec_fltHp {s : State} (hs : s.ready .ed (fltHpNeeds s.role) = true) :
    exec .fltHp s = .next (fltHp cfg s) :=
  checked_of_ready hs rfl

/-! ### The encoder form -/

/-- `SIG` rolled by one frame, the samples `y` at its end (R270). -/
def Buffers.rolled (bs : Buffers) (y : List I16) : Buffers :=
  Buffers.fill .sig 0 (fun cur k => if k < 160 then cur.word .sig (k + 80) else y.getD (k - 160) 0) 240 bs

theorem Buf.inBounds_sig {i : Int} (h0 : 0 ≤ i) (h1 : i < 240) : Buf.sig.inBounds i = true :=
  decide_eq_true (by simp only [Buf.lo, Buf.hi]; omega)

theorem Buffers.some_word {bs : Buffers} {b : Buf} {i : Int} (h : b.inBounds i = true) :
    some (bs.word b i) = bs.read b i := by
  obtain ⟨v, hv⟩ := Option.isSome_iff_exists.mp ((bs.read_isSome b i).trans h)
  rw [Buffers.word, hv, Option.getD_some]

section
variable (bs : Buffers) (y : List I16)

theorem Buffers.at_rolled {n : Nat} (hn : n < 80) : (bs.rolled y).at .sig (160 + n) = outputs y n := by
  have hindex : (160 + n : Int) = 0 + (160 + n : Nat) := by omega
  rw [hindex, Buffers.rolled, Buffers.at_fill _ _ _ _ (by omega) (Buf.inBounds_sig (by omega) (by omega)),
    if_neg (by omega), Nat.add_sub_cancel_left, outputs]

/-- The samples kept move 80 indices down; each is read before it is overwritten. -/
theorem Buffers.read_rolled {i : Int} (h0 : 0 ≤ i) (h1 : i < 160) :
    (bs.rolled y).read .sig i = bs.read .sig (i + 80) := by
  obtain ⟨k, rfl⟩ := Int.eq_ofNat_of_zero_le h0
  rw [Buffers.rolled, ← zero_add (k : Int),
    Buffers.read_fill _ _ _ _ (by omega) (Buf.inBounds_sig (by omega) (by omega)), if_pos (by omega),
    Buffers.some_word (Buf.inBounds_sig (by omega) (by omega)), zero_add,
    Buffers.read_fill_of_outside _ _ _ _ _ (by omega)]

theorem Buffers.read_rolled_of_ne {b : Buf} (hb : b ≠ .sig) (i : Int) : (bs.rolled y).read b i = bs.read b i :=
  Buffers.read_fill_of_outside _ _ _ _ _ fun hin => hb hin.1

end

/-! ### The decoder form -/

/-- The outputs of the decoder's section (R270). -/
def State.postFiltered (s : State) : List I16 :=
  biquad cfg.tHpPost cfg.qHp (fun k => (s.dec.hpMem.elD k 0).toInt) (s.regs.int .pfout)

theorem fltHpDec_regs (s : State) :
    (fltHpDec cfg s).regs = (s.setAll .pcm fun n => s.postFiltered.getD n 0).regs := rfl

theorem fltHpDec_holds_pcm (s : State) {n : Nat} (hn : n < 80) :
    (fltHpDec cfg s).holds .pcm n (outputs s.postFiltered n) := by
  have hwritten : (s.setAll .pcm fun n => s.postFiltered.getD n 0).holds .pcm n (outputs s.postFiltered n) :=
    s.holds_setAll hn rfl
  rwa [State.holds, fltHpDec_regs, ← State.holds]

theorem fltHpDec_regsKept (s : State) : regsKept (wholly [.pcm]) s (fltHpDec cfg s) := by
  obtain ⟨-, -, hregs, -⟩ :=
    (WritesOnly.refl [.pcm] s).setAll (reg := .pcm) (f := fun n => s.postFiltered.getD n 0) (by simp)
  rwa [regsKept, fltHpDec_regs, ← regsKept]

/-! ### The command -/

/-- Settles O43: on either role the section runs over the frame from the memory of that role; what differs is
where its inputs stand and its outputs go. -/
theorem fltHpSection : Obligations.FltHpSection := by
  intro s hs b mem
  cases hrole : s.role with
  | enc =>
    simp only [b, mem, hrole] at hs ⊢
    have hexec : exec .fltHp s = .next (fltHpEnc cfg s) := by
      rw [exec_fltHp (by rwa [hrole]), fltHp, hrole]
    have hrun := biquad_runsSection cfg.tHpPre (fun k => (s.enc.hpMem.elD k 0).toInt)
      (s.regs.int_bounds16 (reg := .pcm) rfl)
    refine ⟨_, _, _, hexec, hrun.in1, hrun.in2, hrun.out1, hrun.out2, hrun.run, hrun.lastIn1, hrun.lastIn2,
      hrun.lastOut1, hrun.lastOut2, fun _ => ⟨fun n hn => ?outputs, ?shifted, rfl, rfl, fun _ _ _ => rfl, ?kept⟩,
      (nomatch ·), rfl, rfl, rfl, rfl⟩
    case outputs => exact (s.bufs.at_rolled _ hn).trans (withPast_natCast ..).symm
    case shifted => exact fun i h0 h1 => s.bufs.read_rolled _ h0 h1
    case kept => exact fun b' i hb' => s.bufs.read_rolled_of_ne _ hb' i
  | dec =>
    simp only [b, mem, hrole] at hs ⊢
    have hexec : exec .fltHp s = .next (fltHpDec cfg s) := by
      rw [exec_fltHp (by rwa [hrole]), fltHp, hrole]
    have hrun := biquad_runsSection cfg.tHpPost (fun k => (s.dec.hpMem.elD k 0).toInt)
      (s.regs.int_bounds16 (reg := .pfout) rfl)
    refine ⟨_, _, _, hexec, hrun.in1, hrun.in2, hrun.out1, hrun.out2, hrun.run, hrun.lastIn1, hrun.lastIn2,
      hrun.lastOut1, hrun.lastOut2, (nomatch ·), fun _ => ⟨fun n hn => ?outputs, rfl, rfl, fltHpDec_regsKept s,
      fun _ _ _ => rfl⟩, rfl, rfl, rfl, rfl⟩
    case outputs =>
      rw [withPast_natCast]
      exact fltHpDec_holds_pcm s hn

end Sys2Proof.Machine

/-! # O47 to O51: the post-filter

PF.RES and PF.ST are the two forms of R265, written as in the units before. The three others each turn on one
fact about their numbers: a delayed residual without energy has no correlation, the ratio filter's first tap is
1, and a gain rounded by a test is the rounded real value. -/

namespace Sys2Proof.Machine

-- One proof at a time: proofs elaborated side by side each hold a thread and its stack (as in the tests).
set_option Elab.async false

section
variable {s t : State}

/-- The frame of a command that also overwrites one flag. -/
theorem frame_writeFlag {written : Reg → Nat → Prop} {samples : Buf → Int → Prop}
    (h : controlKept s t ∧ channelKept s t ∧ regsKept written s t ∧ bufsKept samples s t)
    (fl : StatFlag) (b : Bool) : controlKeptBut fl s (t.writeFlag fl b) ∧ channelKept s (t.writeFlag fl b)
      ∧ regsKept written s (t.writeFlag fl b) ∧ bufsKept samples s (t.writeFlag fl b) := by
  obtain ⟨⟨hfctl, hfstat, hmodel⟩, hchannel, hregs, hbufs⟩ := h
  have hbits (k : Nat) (hk : k ≠ fl.bit) : (t.writeFlag fl b).fstat.getLsbD k = s.fstat.getLsbD k := by
    rw [State.getLsbD_writeFlag _ _ _ hk, hfstat]
  exact ⟨⟨hfctl, hmodel, hbits⟩, hchannel, hregs, hbufs⟩

@[simp] theorem State.holds_writeFlag {fl : StatFlag} {b : Bool} {reg : Reg} {i : Nat} {v : Int} :
    (t.writeFlag fl b).holds reg i v ↔ t.holds reg i v := by
  rw [State.holds, State.writeFlag_regs, State.holds]

end

section
variable {s : State} {sf : Subframe} {n : Nat}

/-! ## PF.RES (R291) -/

theorem exec_pfRes (hs : s.ready .d [needAq sf] = true) : exec (.pfRes sf) s = .next (pfRes cfg sf s) :=
  checked_of_ready hs rfl

theorem at_pfRes (c : Config) (s : State) (sf : Subframe) (hn : n < 40) :
    (pfRes c sf s).bufs.at .pfres (sfBase sf + n)
      = (firSample c.qLp (bw (s.regs.aqAt sf) c.gammaN) (s.bufs.at .speech) (sfBase sf + n)).toInt := by
  refine (s.at_fillSubframe hn fun bs bs' hagree => ?_).trans ?_
  · rw [hagree.at_of_ne (b' := .speech) (by decide)]
  · rw [s.fillSubframe_at_of_ne (b' := .speech) (by decide)]

/-! ## PF.ST (R296) -/

theorem exec_pfSt (hs : s.ready .d [needAq sf, .all .tlt] = true) :
    exec (.pfSt sf) s = .next (pfSt cfg sf s) :=
  checked_of_ready hs rfl

theorem at_pfSt (c : Config) (s : State) (sf : Subframe) (hn : n < 40) :
    (pfSt c sf s).bufs.at .stf (sfBase sf + n)
      = (iirSample c.qLp (bw (s.regs.aqAt sf) c.gammaD) (s.regs.int .tlt n) ((pfSt c sf s).bufs.at .stf)
          (sfBase sf + n)).toInt :=
  s.at_fillSubframe hn fun _ _ hagree => iirSample_congr _ _ _ _ fun _ hj => hagree.at_of_lt hj

end

/-- Settles O47: the filter reads `SPEECH`, which it does not write. -/
theorem pfResResidual : Obligations.PfResResidual := by
  intro s sf hs num
  have hnum : bw (s.regs.aqAt sf) cfg.gammaN = num := funext fun i => bw_eq _ _ i
  exact ⟨pfRes cfg sf s, exec_pfRes hs, fun n hn => (at_pfRes cfg s sf hn).trans (hnum ▸ toInt_firSample ..),
    s.fillSubframe_writesSubframe⟩

/-- Settles O50: the filter reads `STF` only before the sample it writes. -/
theorem pfStRecursion : Obligations.PfStRecursion := by
  intro s sf hs den
  have hden : bw (s.regs.aqAt sf) cfg.gammaD = den := funext fun i => bw_eq _ _ i
  refine ⟨pfSt cfg sf s, exec_pfSt hs, fun n hn => ?_, s.fillSubframe_writesSubframe⟩
  rw [at_pfSt cfg s sf hn, hden, toInt_iirSample]

/-! ## PF.LT (R292, R293) -/

/-! ### The search -/

/-- The lowest lag of the window around `T0`, by the default clamp; the highest is 6 more. -/
def ltLow (t0 : Int) : Int := if 140 < t0 then 137 else t0 - 3

theorem ltWindow_cfg (t0 : Int) : ltWindow cfg t0 = (ltLow t0, ltLow t0 + 6) := by
  have hclamp : (cfg.pfLtClamp ∧ 143 < t0 + 3) ↔ 140 < t0 :=
    ⟨fun ⟨_, h⟩ => by omega, fun h => ⟨rfl, by omega⟩⟩
  rw [ltWindow, ltLow, if_congr hclamp rfl rfl]
  split
  · rfl
  · rw [sub_add]; rfl

theorem ltLag_cfg (bs : Buffers) (sf : Subframe) (t0 : Int) :
    ltLag cfg bs sf t0 = argMax (ltCorr bs sf) (ltLow t0) (intRange (ltLow t0) (ltLow t0 + 6)) := by
  rw [ltLag, ltWindow_cfg, intRange]

/-- What R293 says of the lag chosen. -/
theorem ltLag_spec (bs : Buffers) (sf : Subframe) (t0 : Int) : let k := ltLag cfg bs sf t0
    (ltLow t0 ≤ k ∧ k ≤ ltLow t0 + 6) ∧ (∀ l, ltLow t0 ≤ l → l ≤ ltLow t0 + 6 → ltCorr bs sf l ≤ ltCorr bs sf k)
      ∧ ∀ l, ltLow t0 ≤ l → l < k → ltCorr bs sf l < ltCorr bs sf k := by
  rw [ltLag_cfg]
  exact argMax_intRange _ _ (by omega)

/-- The lags of R188 keep the search inside `PFRES`. -/
theorem ltInBounds_of_lag (sf : Subframe) {t0 : Int} (hlo : 19 ≤ t0) (hhi : t0 ≤ 144) :
    ltInBounds cfg sf t0 = true := by
  have hsf : 0 ≤ sfBase sf ∧ sfBase sf ≤ 40 := by cases sf <;> decide
  have hlow : 16 ≤ ltLow t0 ∧ ltLow t0 ≤ 137 := by
    unfold ltLow
    split <;> omega
  have hbounds : Buf.pfres.lo = -143 ∧ Buf.pfres.hi = 79 := ⟨rfl, rfl⟩
  rw [ltInBounds, ltWindow_cfg, Buf.inBounds, decide_eq_true_iff]
  omega

theorem exec_pfLt {s : State} {sf : Subframe} (hs : s.ready .d [.all .t0] = true)
    (hlo : 19 ≤ s.regs.int .t0 0) (hhi : s.regs.int .t0 0 ≤ 144) :
    exec (.pfLt sf) s = .next (pfLt cfg sf s) :=
  (checked_of_ready hs (decide_eq_true ⟨hlo, hhi⟩)).trans
    (require_eq_next.mpr ⟨ltInBounds_of_lag sf hlo hhi, rfl⟩)

/-! ### The gain -/

section
variable (bs : Buffers) (sf : Subframe) (l : Int)

theorem ltCorr_eq_sum :
    ltCorr bs sf l = ∑ n ∈ Finset.range 40, ltSample bs sf n * ltSample bs sf (n - l) :=
  sumN_eq_sum _ _

theorem ltEnergy_eq_sum : ltEnergy bs sf l = ∑ n ∈ Finset.range 40, ltSample bs sf (n - l) ^ 2 :=
  sumN_eq_sum _ _

/-- A residual that correlates with its delayed copy has a delayed copy with energy. -/
theorem ltEnergy_pos (hcorr : 0 < ltCorr bs sf l) : 0 < ltEnergy bs sf l := by
  rw [ltEnergy_eq_sum]
  refine lt_of_le_of_ne (Finset.sum_nonneg fun _ _ => sq_nonneg _) fun hzero => hcorr.ne' ?_
  have hsquares := (Finset.sum_eq_zero_iff_of_nonneg fun _ _ => sq_nonneg _).mp hzero.symm
  rw [ltCorr_eq_sum]
  exact Finset.sum_eq_zero fun n hn => by rw [pow_eq_zero_iff two_ne_zero |>.mp (hsquares n hn), mul_zero]

theorem ltPasses_iff (c : Config) : ltPasses c bs sf l = true ↔ ltCorr bs sf l ≤ 0
    ∨ (ltCorr bs sf l * ltCorr bs sf l : Rat) < c.pfLtThresh * (ltEnergy bs sf 0 * ltEnergy bs sf l : Rat) := by
  rw [ltPasses, decide_eq_true_iff]
  push_cast
  rfl

theorem ltGain_bounds (hcorr : 0 < ltCorr bs sf l) : 0 ≤ ltGain cfg bs sf l ∧ ltGain cfg bs sf l ≤ 1 := by
  have hp : cfg.gammaP = 1 / 2 := rfl
  have hgl : (0 : Rat) ≤ min 1 ((ltCorr bs sf l : Rat) / ltEnergy bs sf l) :=
    le_min zero_le_one (div_nonneg (Int.cast_nonneg hcorr.le) (Int.cast_nonneg (ltEnergy_pos bs sf l hcorr).le))
  simp only [ltGain, hp]
  generalize min 1 ((ltCorr bs sf l : Rat) / ltEnergy bs sf l) = gl at hgl ⊢
  exact ⟨by positivity, (div_le_one (by positivity)).mpr (by linarith)⟩

/-! ### The filtered sample -/

theorem toInt_ltOut_of_passes {c : Config} (h : ltPasses c bs sf l = true) (n : Nat) :
    (ltOut c bs sf l n).toInt = ltSample bs sf n := by
  rw [ltOut, if_pos h, ltSample, Buffers.at]

theorem toInt_ltOut_of_not_passes {c : Config} (h : ltPasses c bs sf l = false) (n : Nat) :
    (ltOut c bs sf l n).toInt = narrow16 ((1 - ltGain c bs sf l) * ltSample bs sf n
      + ltGain c bs sf l * ltSample bs sf (n - l)) := by
  rw [ltOut, if_neg (Bool.not_eq_true _ ▸ h), toInt_sat16_rnd]

end

theorem at_pfLt (c : Config) (s : State) (sf : Subframe) {n : Nat} (hn : n < 40) :
    (pfLt c sf s).bufs.at .ltf (sfBase sf + n)
      = (ltOut c s.bufs sf (ltLag c s.bufs sf (s.regs.int .t0 0)) n).toInt :=
  s.at_fillSubframe hn fun _ _ _ => rfl

theorem flag_pfLt (c : Config) (s : State) (sf : Subframe) :
    (pfLt c sf s).flag .ltOff = ltPasses c s.bufs sf (ltLag c s.bufs sf (s.regs.int .t0 0)) :=
  State.flag_writeFlag_self _ _ _

/-- Settles O48: the lag is the lowest of the window's best, and a positive correlation there makes the delayed
energy positive. -/
theorem pfLtFilters : Obligations.PfLtFilters := by
  intro s sf hs hlo hhi t0 lo r corr energy
  have hcorr : ltCorr s.bufs sf = corr := funext fun l => ltCorr_eq_sum s.bufs sf l
  have henergy : ltEnergy s.bufs sf = energy := funext fun l => ltEnergy_eq_sum s.bufs sf l
  obtain ⟨⟨hk, hk'⟩, hbest, hfirst⟩ := ltLag_spec s.bufs sf t0
  refine ⟨pfLt cfg sf s, ltLag cfg s.bufs sf t0, exec_pfLt hs hlo hhi, hk, hk', hcorr ▸ hbest, hcorr ▸ hfirst, ?_,
    frame_writeFlag s.fillSubframe_writesSubframe _ _⟩
  have hpasses := ltPasses_iff s.bufs sf (ltLag cfg s.bufs sf t0) cfg
  rw [flag_pfLt, ← hcorr, ← henergy]
  split
  case isTrue hpass =>
    have hpass := hpasses.mpr hpass
    refine ⟨hpass, fun n hn => ?_⟩
    rw [at_pfLt cfg s sf hn, toInt_ltOut_of_passes _ _ _ hpass]
    rfl
  case isFalse hfilter =>
    have hpos := not_le.mp fun hle => hfilter (.inl hle)
    have hfilter := Bool.eq_false_iff.mpr (mt hpasses.mp hfilter)
    obtain ⟨hg0, hg1⟩ := ltGain_bounds s.bufs sf _ hpos
    refine ⟨hfilter, ltEnergy_pos _ _ _ hpos, hg0, hg1, fun n hn => ?_⟩
    rw [at_pfLt cfg s sf hn, toInt_ltOut_of_not_passes _ _ _ hfilter]
    rfl

/-! ## PF.TILT (R294, R295) -/

/-! ### The response of the ratio filter -/

/-- Tap `n` of a response. -/
def tap (h : List I16) (n : Nat) : Int := (h.getD n 0).toInt

/-- What the ratio filter is fed at tap `n`: its numerator, the leading 1 included. -/
def ratioInput (qLp : Nat) (num : Nat → Int) (n : Nat) : Int :=
  if n = 0 then 2 ^ qLp else if n ≤ 10 then num (n - 1) else 0

/-- Of the ten past outputs, those before the first tap are 0. -/
theorem sum_pastTaps (den : Nat → Int) (h : List I16) (n : Nat) :
    ∑ i ∈ Finset.range 10, den i * (if 0 ≤ (n : Int) - 1 - i then tap h ((n : Int) - 1 - i).toNat else 0)
      = ∑ i ∈ Finset.range (min n 10), den i * tap h (n - 1 - i) := by
  symm
  rw [← Finset.sum_subset (Finset.range_mono (min_le_right n 10)) fun i _ hi => ?before]
  case before =>
    rw [Finset.mem_range] at *
    rw [if_neg (by omega), mul_zero]
  refine Finset.sum_congr rfl fun i hi => ?_
  rw [Finset.mem_range] at hi
  rw [if_pos (by omega), show ((n : Int) - 1 - i).toNat = n - 1 - i by omega]

/-- The next tap, from the taps before it (R295). -/
def ratioStep (qLp : Nat) (num den : Nat → Int) (h : List I16) (n : Nat) : I16 :=
  iirSample qLp den (ratioInput qLp num n) (fun k => if 0 ≤ k then tap h k.toNat else 0) n

theorem ratioResponse_eq_gen (qLp : Nat) (num den : Nat → Int) :
    ratioResponse qLp num den = gen (ratioStep qLp num den) 22 := rfl

theorem toInt_ratioStep (qLp : Nat) (num den : Nat → Int) (h : List I16) (n : Nat) :
    (ratioStep qLp num den h n).toInt = narrow16 (((ratioInput qLp num n * 2 ^ qLp
      - ∑ i ∈ Finset.range (min n 10), den i * tap h (n - 1 - i) : Int) : Rat) / 2 ^ qLp) := by
  rw [ratioStep, toInt_iirSample, sum_pastTaps]

theorem tap_ratioResponse (qLp : Nat) (num den : Nat → Int) {n : Nat} (hn : n < 22) :
    tap (ratioResponse qLp num den) n = narrow16 (((ratioInput qLp num n * 2 ^ qLp
      - ∑ i ∈ Finset.range (min n 10), den i * tap (ratioResponse qLp num den) (n - 1 - i) : Int) : Rat)
        / 2 ^ qLp) := by
  have hpast (i : Nat) (hi : i ∈ Finset.range (min n 10)) :
      den i * tap (gen (ratioStep qLp num den) n) (n - 1 - i)
        = den i * tap (gen (ratioStep qLp num den) 22) (n - 1 - i) := by
    rw [Finset.mem_range] at hi
    rw [tap, gen_getD_of_lt _ (by omega) hn.le, tap]
  rw [ratioResponse_eq_gen, ← Finset.sum_congr rfl hpast, ← toInt_ratioStep, tap, gen_getD _ hn]

theorem tap_ratioResponse_zero (num den : Nat → Int) : tap (ratioResponse 12 num den) 0 = 4096 := by
  rw [tap_ratioResponse _ _ _ (by norm_num), ratioInput, if_pos rfl, Nat.zero_min, Finset.sum_range_zero, narrow16]
  norm_num

/-! ### Its correlations -/

section
variable (h : List I16)

theorem responseCorr_zero : responseCorr h 0 = ∑ n ∈ Finset.range 22, tap h n * tap h n := sumN_eq_sum _ _

theorem responseCorr_one : responseCorr h 1 = ∑ n ∈ Finset.range 21, tap h n * tap h (n + 1) := sumN_eq_sum _ _

theorem responseCorr_zero_pos (h0 : tap h 0 ≠ 0) : 0 < responseCorr h 0 := by
  rw [responseCorr_zero]
  exact Finset.sum_pos' (fun n _ => mul_self_nonneg (tap h n)) ⟨0, by simp, mul_self_pos.mpr h0⟩

end

theorem responseCorr_tiltResponse_pos (rs : Regs) (sf : Subframe) : 0 < responseCorr (tiltResponse cfg rs sf) 0 := by
  have htap : tap (tiltResponse cfg rs sf) 0 = 4096 := tap_ratioResponse_zero _ _
  exact responseCorr_zero_pos _ (by rw [htap]; norm_num)

/-! ### The compensated sample -/

theorem toInt_tiltOut (c : Config) (bs : Buffers) (sf : Subframe) (h : List I16) (n : Nat) :
    (tiltOut c bs sf h n).toInt = if responseCorr h 1 < 0 then bs.at .ltf (sfBase sf + n)
      else narrow16 ((bs.at .ltf (sfBase sf + n) : Rat)
        - c.gammaT * responseCorr h 1 / responseCorr h 0 * bs.at .ltf (sfBase sf + n - 1)) := by
  rw [tiltOut]
  split
  · rfl
  · exact toInt_sat16_rnd _

/-! ### The command -/

theorem exec_pfTilt {s : State} {sf : Subframe} (hs : s.ready .d [needAq sf] = true) :
    exec (.pfTilt sf) s = .next (pfTilt cfg sf s) :=
  checked_of_ready hs rfl

/-- The operand registers as `PF.TILT` leaves them. -/
def State.tiltWritten (s : State) (c : Config) (sf : Subframe) : State :=
  let h := tiltResponse c s.regs sf
  (s.setAll .tlt (tiltOut c s.bufs sf h)).setAll .k1 fun _ => tiltK1 h

theorem pfTilt_eq (c : Config) (s : State) (sf : Subframe) : pfTilt c sf s = (s.tiltWritten c sf).writeFlag .tiltOff
    (decide (responseCorr (tiltResponse c s.regs sf) 1 < 0)) := rfl

section
variable (s : State) (c : Config) (sf : Subframe)

theorem State.tiltWritten_holds_k1 : (s.tiltWritten c sf).holds .k1 0 (tiltK1 (tiltResponse c s.regs sf)).toInt :=
  State.holds_setAll _ Nat.one_pos rfl

theorem State.tiltWritten_holds_tlt {n : Nat} (hn : n < 40) :
    (s.tiltWritten c sf).holds .tlt n (tiltOut c s.bufs sf (tiltResponse c s.regs sf) n).toInt :=
  (State.holds_setAll_of_ne (by decide)).mpr (s.holds_setAll hn rfl)

theorem State.tiltWritten_writesOnly : WritesOnly [.tlt, .k1] s (s.tiltWritten c sf) :=
  ((WritesOnly.refl _ s).setAll (by simp)).setAll (by simp)

end

/-- Settles O49: the sequence is the taps of the response, whose energy is positive as the first is 1. -/
theorem pfTiltCompensates : Obligations.PfTiltCompensates := by
  intro s sf hs bwe
  have hbw (g : Rat) : bw (s.regs.aqAt sf) g = bwe g := funext fun i => bw_eq _ _ i
  refine ⟨pfTilt cfg sf s, tap (tiltResponse cfg s.regs sf), exec_pfTilt hs, fun n hn => ?taps, ?_, ?frame⟩
  case taps =>
    rw [← hbw, ← hbw]
    exact tap_ratioResponse _ _ _ hn
  case frame =>
    rw [pfTilt_eq]
    exact frame_writeFlag (s.tiltWritten_writesOnly cfg sf) _ _
  rw [← responseCorr_zero, ← responseCorr_one, pfTilt_eq, State.flag_writeFlag_self]
  refine ⟨responseCorr_tiltResponse_pos s.regs sf, ?k1, rfl, fun n hn => ?samples⟩
  case k1 =>
    rw [← toInt_sat16_rnd, State.holds_writeFlag]
    exact s.tiltWritten_holds_k1 cfg sf
  case samples =>
    rw [← toInt_tiltOut, State.holds_writeFlag]
    exact s.tiltWritten_holds_tlt cfg sf hn

/-! ## PF.AGC (R297, R298) -/

/-- A word rounded by a test that compares with a real value is that value rounded and narrowed. -/
theorem toInt_sat16Rnd {le : Int → Bool} {y : ℝ} (hle : ∀ k, le k = true ↔ (k : ℝ) - 1 / 2 ≤ y) :
    (sat16Rnd le).toInt = min 32767 (max (-32768) ⌊y + 1 / 2⌋) := by
  have hfloor (k : Int) : le k = true ↔ k ≤ ⌊y + 1 / 2⌋ := by rw [hle, Int.le_floor, sub_le_iff_le_add]
  obtain ⟨hlo, hhi, hpass, hfail⟩ := greatest_spec_above (p := le) (lo := -32768)
    (fun a b _ hab hb => (hfloor a).mpr (hab.trans ((hfloor b).mp hb))) 16
  have hk : (sat16Rnd le).toInt = greatest le (-32768) 16 := toInt_ofInt16 hlo (by omega)
  rw [← hk] at hlo hhi hpass hfail
  have hbelow (hne : -32768 < (sat16Rnd le).toInt) := (hfloor _).mp (hpass _ hne le_rfl)
  have habove (hne : (sat16Rnd le).toInt + 1 < 32768) :=
    mt (hfloor _).mpr (Bool.eq_false_iff.mp (hfail _ (Int.lt_add_one_iff.mpr le_rfl) hne))
  omega

/-- The test of a gain compares with the real square root it does not compute. -/
theorem leAddSqrt_iff {a b : Rat} (hb : 0 ≤ b) (r : Rat) (k : Int) :
    leAddSqrt a b r k = true ↔ (k : ℝ) - 1 / 2 ≤ a + b * Real.sqrt r := by
  have hsqrt : (b : ℝ) * Real.sqrt r = Real.sqrt ((b * b * r : Rat) : ℝ) := by
    push_cast
    rw [Real.sqrt_mul (mul_self_nonneg _), Real.sqrt_mul_self (Rat.cast_nonneg.mpr hb)]
  have hd : (k : ℝ) - 1 / 2 ≤ a + b * Real.sqrt r
      ↔ (((k : Rat) - 1 / 2 - a : Rat) : ℝ) ≤ Real.sqrt ((b * b * r : Rat) : ℝ) := by
    rw [← hsqrt]
    push_cast
    constructor <;> intro h <;> linarith
  rw [hd, leAddSqrt]
  generalize (k : Rat) - 1 / 2 - a = d
  rw [Bool.or_eq_true, decide_eq_true_iff, decide_eq_true_iff]
  rcases le_or_gt d 0 with hneg | hpos
  · exact iff_of_true (.inl hneg) ((Rat.cast_nonpos.mpr hneg).trans (Real.sqrt_nonneg _))
  · rw [Real.le_sqrt' (Rat.cast_pos.mpr hpos), or_iff_right hpos.not_ge, sq]
    norm_cast

/-! ### The energies -/

theorem sfEnergy_eq_sum (bs : Buffers) (b : Buf) (sf : Subframe) :
    sfEnergy bs b sf = ∑ n ∈ Finset.range 40, bs.at b (sfBase sf + n) ^ 2 :=
  sumN_eq_sum _ _

theorem sqrt_agcSquare (bs : Buffers) (sf : Subframe) : Real.sqrt (agcSquare bs sf)
    = if sfEnergy bs .stf sf = 0 then 0 else Real.sqrt (sfEnergy bs .speech sf / sfEnergy bs .stf sf) := by
  unfold agcSquare
  split
  · rw [Rat.cast_zero, Real.sqrt_zero]
  · push_cast
    rfl

/-! ### The gain -/

theorem toInt_agcStep (c : Config) (bs : Buffers) (sf : Subframe) (g : I16) :
    (agcStep c (agcSquare bs sf) g).toInt = min 32767 (max (-32768)
      ⌊(9 / 10 * g.toInt + 1 / 10 * Real.sqrt (agcSquare bs sf) * 2 ^ c.qAgc + 1 / 2 : ℝ)⌋) := by
  have hcast : (9 / 10 * g.toInt + 1 / 10 * Real.sqrt (agcSquare bs sf) * 2 ^ c.qAgc : ℝ)
      = ((9 / 10 * g.toInt : Rat) : ℝ) + ((1 / 10 * 2 ^ c.qAgc : Rat) : ℝ) * Real.sqrt (agcSquare bs sf) := by
    push_cast
    ring
  rw [hcast]
  exact toInt_sat16Rnd (leAddSqrt_iff (by positivity) _)

/-- By the default one gain scales the subframe. -/
theorem agcGains_cfg_getD (g2 : Rat) (prev : I16) {n : Nat} (hn : n < 40) :
    (agcGains cfg g2 prev).getD n 0 = agcStep cfg g2 prev := by
  have hdefault : agcGains cfg g2 prev = tabFrom (fun _ => agcStep cfg g2 prev) 0 40 := rfl
  rw [hdefault, tabFrom_getD, if_pos hn]

/-! ### The command -/

theorem exec_pfAgc {s : State} {sf : Subframe} (hs : s.ready .d [] = true) :
    exec (.pfAgc sf) s = .next (pfAgc cfg sf s) :=
  checked_of_ready hs rfl

section
variable (s : State) (sf : Subframe)

/-- The gain that `PF.AGC` leaves. -/
def State.agcGain : I16 := agcStep cfg (agcSquare s.bufs sf) s.dec.agcPrev

theorem pfAgc_dec : (pfAgc cfg sf s).dec = { s.dec with agcPrev := s.agcGain sf } := by
  rw [pfAgc, agcGains_cfg_getD _ _ (by norm_num), State.agcGain]

/-- The operand registers as `PF.AGC` leaves them. -/
def State.agcScaled : State :=
  s.setFrom .pfout (40 * sf.idx) 40 fun n =>
    sat16 (shrR (s.bufs.at .stf (sfBase sf + n)
      * ((agcGains cfg (agcSquare s.bufs sf) s.dec.agcPrev).getD n 0).toInt) cfg.qAgc)

theorem pfAgc_regs : (pfAgc cfg sf s).regs = (s.agcScaled sf).regs := rfl

theorem pfAgc_holds {n : Nat} (hn : n < 40) : (pfAgc cfg sf s).holds .pfout (40 * sf.idx + n)
    (narrow16 ((s.bufs.at .stf (sfBase sf + n) * (s.agcGain sf).toInt : Rat) / 2 ^ cfg.qAgc)) := by
  rw [State.holds, pfAgc_regs, ← State.holds]
  refine s.holds_setFrom hn (by cases sf <;> decide) ?_
  rw [toInt_sat16_shrR, agcGains_cfg_getD _ _ hn, State.agcGain, Int.cast_mul]

theorem pfAgc_regsKept : regsKept (part .pfout (40 * sf.idx) 40) s (pfAgc cfg sf s) := by
  rw [regsKept, pfAgc_regs]
  exact setFrom_regsKept s _ _ _ _

end

/-- Settles O51: the gain's test is against the real root of `agcSquare`. -/
theorem pfAgcScales : Obligations.PfAgcScales := by
  intro s sf hs ein eout root g
  have hein : sfEnergy s.bufs .speech sf = ein := sfEnergy_eq_sum ..
  have heout : sfEnergy s.bufs .stf sf = eout := sfEnergy_eq_sum ..
  have hroot : Real.sqrt (agcSquare s.bufs sf) = root := by rw [sqrt_agcSquare, hein, heout]
  have hgain : (s.agcGain sf).toInt = g := by rw [State.agcGain, toInt_agcStep, hroot]
  refine ⟨pfAgc cfg sf s, exec_pfAgc hs, fun n hn => ?samples, ?_, ?_, rfl, ⟨rfl, rfl, rfl, rfl⟩,
    pfAgc_regsKept s sf, fun _ _ _ => rfl⟩
  case samples =>
    rw [← hgain]
    exact pfAgc_holds s sf hn
  · rw [pfAgc_dec, hgain]
  · rw [pfAgc_dec]

end Sys2Proof.Machine

/-! # O4 to O8: lifecycle, frame bracket and excitation update (49_control.md) -/

namespace Sys2Proof.Machine

-- One proof at a time: proofs elaborated side by side each hold a thread and its stack (as in the tests).
set_option Elab.async false

/-! ## CH.INIT (R335, R50) -/

theorem Buffers.eq_zero_of_mem_samples_zero {b : Buf} {v : I16} (h : v ∈ Buffers.zero.samples b) : v = 0 := by
  have htab : ∃ n, v ∈ tabFrom (fun _ => (0 : I16)) 0 n := by cases b <;> exact ⟨_, h⟩
  obtain ⟨n, hmem⟩ := htab
  obtain ⟨_, -, hv⟩ := (mem_tabFrom _ _ _ _).mp hmem
  exact hv.symm

theorem Buffers.read_zero {b : Buf} {i : Int} (h : b.inBounds i = true) : Buffers.zero.read b i = some 0 := by
  obtain ⟨v, hv⟩ := Option.isSome_iff_exists.mp ((Buffers.zero.read_isSome b i).trans h)
  have hmem : v ∈ Buffers.zero.samples b := by
    rw [Buffers.read, if_pos h] at hv
    exact List.mem_of_getElem? hv
  rw [hv, Buffers.eq_zero_of_mem_samples_zero hmem]

theorem Regs.definedAt_undef (reg : Reg) (i : Nat) : Regs.undef.definedAt reg i = false := by
  rw [Regs.definedAt, Regs.elD_undef]
  rfl

/-- `INIT_LSP` in the memories that start with it. -/
theorem map_toInt_initLsp : (Vec.tab cfg.initLsp : Vec I16 10).toList.map BitVec.toInt = initLspDefault := by
  decide

theorem map_toInt_initLsf : (Vec.tab cfg.initLsf : Vec I16 10).toList.map BitVec.toInt = initLsfDefault := by
  decide

/-- Every row of the codeword history starts as `INIT_LSF`. -/
theorem toInt_initLsfHist {k i : Nat} (hk : k < 4) (hi : i < 10) :
    ((Vec.tab fun j => cfg.initLsf (j % 10) : Vec I16 40).elD (10 * k + i) 0).toInt
      = initLsfDefault.getD i 0 := by
  have hrow : ∀ i < 10, (cfg.initLsf i).toInt = initLsfDefault.getD i 0 := by decide
  have hcolumn : (10 * k + i) % 10 = i := by omega
  rw [Vec.elD_tab, if_pos (by omega), hcolumn, hrow i hi]

/-- Settles O4: what a closed channel becomes is `State.fresh`, field by field at the defaults of R50. -/
theorem chInitResets : Obligations.ChInitResets := by
  intro s role
  refine ⟨fun hopen => if_pos hopen, fun hclosed =>
    ⟨State.fresh cfg (fctlOpened role) s.port s.closes, if_neg (by simp [hclosed]), ⟨rfl, rfl⟩, ?fctl, rfl,
      Regs.definedAt_undef, fun b i hlo hhi => Buffers.read_zero (decide_eq_true ⟨hlo, hhi⟩),
      fun _ => ?enc, fun _ => ?dec⟩⟩
  case fctl => cases role <;> rfl
  case enc =>
    exact ⟨map_toInt_initLsp, rfl, fun _ hk _ hi => toInt_initLsfHist hk hi, rfl, rfl, rfl⟩
  case dec =>
    exact ⟨map_toInt_initLsp, fun _ hk _ hi => toInt_initLsfHist hk hi, map_toInt_initLsf, rfl, rfl, rfl, rfl, rfl,
      rfl, rfl, rfl, rfl⟩

/-! ## CH.CLOSE (R336) -/

theorem exec_chClose {s : State} (hopen : s.isOpen = true) : exec .chClose s = .next s.closed :=
  if_neg (by simp [hopen])

/-- What is left of a channel depends on the count of closed channels and the port alone. -/
theorem closed_congr {s s' : State} (hcloses : s'.closes = s.closes) (hport : s'.port = s.port) :
    s'.closed = s.closed := by
  rw [State.closed, State.closed, hcloses, hport]

/-- Settles O5: the closed channel is made of the free values of this close. -/
theorem chCloseClears : Obligations.ChCloseClears := by
  refine fun s => ⟨fun hclosed => if_pos hclosed, fun hopen =>
    ⟨s.closed, exec_chClose hopen, s.closed_isOpen, s.closed_port, s.closed_closes,
      fun s' hopen' hcloses hport => ?_⟩⟩
  rw [exec_chClose hopen', closed_congr hcloses hport]

/-! ## FRM.BEGIN (R337) -/

/-- The frame's input (R337). -/
def Role.input : Role → Reg
  | .enc => .pcm
  | .dec => .prm

theorem Regs.begun_eq_put (rs : Regs) (role : Role) :
    rs.begun role = Regs.undef.put (Role.input role) (rs.get (Role.input role)) := by
  cases role <;> rfl

theorem Regs.elD_begun (rs : Regs) (role : Role) (reg : Reg) (i : Nat) :
    ((rs.begun role).get reg).elD i none
      = if reg = Role.input role then (rs.get reg).elD i none else none := by
  rw [Regs.begun_eq_put]
  split
  next hinput =>
    subst hinput
    rw [Regs.get_put_self]
  next hother => rw [Regs.get_put_of_ne _ hother, Regs.elD_undef]

/-- The state `FRM.BEGIN` leaves. -/
def State.begun (s : State) (bfi pe : Bool) : State :=
  { s with fctl := fctlBegun s.fctl bfi pe, fstat := 0, regs := s.regs.begun s.role }

section
variable {s : State} {bfi pe : Bool}

/-! The branches of `execFrmBegin`, in the order of its checks. -/

theorem exec_frmBegin_of_closed (hopen : s.isOpen = false) :
    exec (.frmBegin bfi pe) s = .refused .channelClosed :=
  if_pos hopen

theorem exec_frmBegin_of_inFrame (hopen : s.isOpen = true) (hframe : s.inFrame = true) :
    exec (.frmBegin bfi pe) s = .refused .inFrame :=
  (if_neg (by simp [hopen])).trans (if_pos hframe)

theorem exec_frmBegin_of_erasedEnc (hopen : s.isOpen = true) (hframe : s.inFrame = false)
    (herased : s.role = .enc ∧ (bfi || pe) = true) :
    exec (.frmBegin bfi pe) s = .refused .parameterRange :=
  (if_neg (by simp [hopen])).trans ((if_neg (by simp [hframe])).trans (if_pos herased))

theorem exec_frmBegin (hopen : s.isOpen = true) (hframe : s.inFrame = false)
    (hflags : ¬(s.role = .enc ∧ (bfi || pe) = true)) :
    exec (.frmBegin bfi pe) s = .next (s.begun bfi pe) :=
  (if_neg (by simp [hopen])).trans ((if_neg (by simp [hframe])).trans (if_neg hflags))

end

/-- Settles O6: by the first check that fails; past them only bits 2 to 4 of `FCTL` are written. -/
theorem frmBeginOpensFrame : Obligations.FrmBeginOpensFrame := by
  intro s bfi pe
  have hbit := getLsbD_fctlBegun s.fctl bfi pe
  refine ⟨exec_frmBegin_of_closed, exec_frmBegin_of_inFrame, fun hopen hframe hrole herased => ?_,
    fun hopen hframe hflags => ⟨s.begun bfi pe, exec_frmBegin hopen hframe ?_, hbit 2, hbit 3, hbit 4, rfl,
      ⟨rfl, rfl⟩, fun k h2 h3 h4 => ?_, fun reg i => ?input, ⟨rfl, rfl⟩, fun _ _ _ => rfl⟩⟩
  · exact exec_frmBegin_of_erasedEnc hopen hframe ⟨hrole, by simpa using herased⟩
  · rintro ⟨henc, herased⟩
    obtain ⟨hbfi, hpe⟩ := hflags henc
    simp [hbfi, hpe] at herased
  · exact (hbit k).trans (by rw [if_neg h4, if_neg h3, if_neg h2])
  case input =>
    refine (Regs.elD_begun s.regs s.role reg i).trans ?_
    cases s.role <;> rfl

/-! ## EXC.MIX (R338) -/

theorem toInt_mixSample (c : Config) (rs : Regs) (n : Nat) : (mixSample c rs n).toInt
    = narrow16 ((rs.int .gp 0 * rs.int .acv n : Rat) / 2 ^ c.qGp
      + (rs.int .gc 0 * rs.int .fcv n : Rat) / 2 ^ (c.qGc + c.qFcv)) := by
  rw [mixSample, toInt_sat16_rnd, val, val, Int.cast_mul, Int.cast_mul]

theorem State.recordGp_enc_of_enc {s : State} (hr : s.role = .enc) :
    s.recordGp.enc = { s.enc with gpLast := sat16 (s.regs.int .gp 0) } := by
  simp only [State.recordGp, hr]

theorem State.recordGp_enc_of_dec {s : State} (hr : s.role = .dec) : s.recordGp.enc = s.enc := by
  simp only [State.recordGp, hr]

theorem Regs.toInt_sat16_int (rs : Regs) {reg : Reg} (hw : reg.width = 16) (i : Nat) :
    (sat16 (rs.int reg i)).toInt = rs.int reg i := by
  obtain ⟨hlo, hhi⟩ := rs.int_bounds16 hw i
  exact toInt_sat16_of_bounds hlo hhi

section
variable (c : Config) (sf : Subframe) (s : State)

theorem at_excMix {n : Nat} (hn : n < 40) :
    (excMix c sf s).bufs.at .exc (sfBase sf + n) = (mixSample c s.regs n).toInt := by
  rw [excMix, State.recordGp_bufs]
  exact s.at_fillSubframe hn fun _ _ _ => rfl

theorem excMix_enc_of_enc (hr : s.role = .enc) :
    (excMix c sf s).enc = { s.enc with gpLast := sat16 (s.regs.int .gp 0) } :=
  State.recordGp_enc_of_enc (s := s.fillSubframe .exc sf _) hr

theorem excMix_enc_of_dec (hr : s.role = .dec) : (excMix c sf s).enc = s.enc :=
  State.recordGp_enc_of_dec (s := s.fillSubframe .exc sf _) hr

theorem excMix_frame : (excMix c sf s).dec = s.dec ∧ controlKept s (excMix c sf s)
    ∧ regsKept (wholly []) s (excMix c sf s) ∧ bufsKept (subframeOf .exc sf) s (excMix c sf s) := by
  obtain ⟨hcontrol, ⟨-, hdec⟩, hregs, hbufs⟩ :=
    s.fillSubframe_writesSubframe (b := .exc) (sf := sf) (f := fun _ n => mixSample c s.regs n)
  simp only [excMix, controlKept, modelKept, regsKept, bufsKept, State.recordGp_dec, State.recordGp_fctl,
    State.recordGp_fstat, State.recordGp_port, State.recordGp_closes, State.recordGp_regs, State.recordGp_bufs]
  exact ⟨hdec, hcontrol, hregs, hbufs⟩

end

theorem exec_excMix {s : State} {sf : Subframe}
    (hs : s.ready .ed [.all .gp, .all .gc, .all .acv, .all .fcv] = true) :
    exec (.excMix sf) s = .next (excMix cfg sf s) :=
  checked_of_ready hs rfl

/-- Settles O7: the samples are those of the subframe's fill; `GP` is recorded on an encoder only. -/
theorem excMixBuildsExcitation : Obligations.ExcMixBuildsExcitation := by
  intro s sf hs
  obtain ⟨hdec, hframe⟩ := excMix_frame cfg sf s
  refine ⟨excMix cfg sf s, exec_excMix hs, fun n hn => ?_, fun hr => ?_, excMix_enc_of_dec cfg sf s, hdec, hframe⟩
  · rw [at_excMix _ _ _ hn, toInt_mixSample]
  · rw [excMix_enc_of_enc cfg sf s hr]
    exact ⟨rfl, s.regs.toInt_sat16_int rfl 0⟩

/-! ## UPD.FRM (R339) -/

/-- Different buffers shifted one after the other are each shifted as if alone. -/
theorem Buffers.read_foldl_shiftFrame {l : List Buf} (hl : l.Nodup) (bs : Buffers) (b : Buf) (i : Int) :
    (l.foldl Buffers.shiftFrame bs).read b i
      = if b ∈ l ∧ b.lo ≤ i ∧ i < 0 then bs.read b (i + 80) else bs.read b i := by
  induction l generalizing bs with
  | nil => simp
  | cons b' l ih =>
    obtain ⟨hnotin, hl⟩ := List.nodup_cons.mp hl
    rw [List.foldl_cons, ih hl, Buffers.read_shiftFrame, Buffers.read_shiftFrame]
    by_cases hb : b = b'
    · subst hb
      simp [hnotin]
    · simp [hb]

theorem shiftedBufs_nodup (role : Role) : (shiftedBufs role).Nodup := by
  cases role <;> decide

/-- `S.QLSP_PREV` depends on the role and the channel state alone. -/
theorem State.qlspPrev_congr {s t : State} (hrole : t.role = s.role) (henc : t.enc = s.enc) (hdec : t.dec = s.dec)
    (i : Nat) : t.qlspPrev i = s.qlspPrev i := by
  rw [State.qlspPrev, hrole, henc, hdec, State.qlspPrev]

section
variable (s : State)

theorem updFrm_role : (updFrm s).role = s.role := (updFrm_staysInRole s).role_eq

theorem updFrm_qlspPrev {i : Nat} (hi : i < 10) : (updFrm s).qlspPrev i = s.regs.int .qlsp i := by
  have hrole : (updFrm s).role = (s.setQlspPrev fun i => sat16 (s.regs.int .qlsp i)).role :=
    (updFrm_role s).trans (State.role_congr (s.setQlspPrev_fctl _)).symm
  rw [State.qlspPrev_congr hrole rfl rfl, s.qlspPrev_setQlspPrev _ hi, s.regs.toInt_sat16_int rfl]

theorem updFrm_channel : (s.role = .enc → (updFrm s).enc = { s.enc with qlspPrev := (updFrm s).enc.qlspPrev }
      ∧ (updFrm s).dec = s.dec)
    ∧ (s.role = .dec → (updFrm s).dec = { s.dec with qlspPrev := (updFrm s).dec.qlspPrev }
      ∧ (updFrm s).enc = s.enc) := by
  constructor
  all_goals
    intro hr
    simp only [updFrm, State.setQlspPrev, hr, and_self]

theorem updFrm_fctl_bit (k : Nat) : (updFrm s).fctl.getLsbD k = if k = 4 then false else s.fctl.getLsbD k :=
  getLsbD_setBit s.fctl (by decide) false k

theorem read_updFrm (b : Buf) (i : Int) : (updFrm s).bufs.read b i
    = if b ∈ shiftedBufs s.role ∧ b.lo ≤ i ∧ i < 0 then s.bufs.read b (i + 80) else s.bufs.read b i :=
  Buffers.read_foldl_shiftFrame (shiftedBufs_nodup s.role) s.bufs b i

end

theorem exec_updFrm {s : State} (hs : s.ready .ed [.all .qlsp] = true) : exec .updFrm s = .next (updFrm s) :=
  checked_of_ready hs rfl

/-- Settles O8: a buffer of the role is shifted below index 0, every other sample is kept. -/
theorem updFrmShiftsHistory : Obligations.UpdFrmShiftsHistory := by
  intro s hs bufs
  have hbufs : bufs = shiftedBufs s.role := by
    show (match s.role with | .enc => _ | .dec => _) = _
    cases s.role <;> rfl
  obtain ⟨henc, hdec⟩ := updFrm_channel s
  refine ⟨updFrm s, exec_updFrm hs, fun b hb i hlo hneg => ?shifted, fun b i hout => ?kept,
    fun i hi => updFrm_qlspPrev s hi, henc, hdec, updFrm_fctl_bit s 4,
    fun k hk => (updFrm_fctl_bit s k).trans (if_neg hk), s.setQlspPrev_fstat _,
    ⟨s.setQlspPrev_port _, s.setQlspPrev_closes _⟩, fun reg i _ => ?regs⟩
  case shifted => rw [read_updFrm, if_pos ⟨hbufs ▸ hb, hlo, hneg⟩]
  case kept =>
    rw [read_updFrm, if_neg]
    rintro ⟨hb, -, hneg⟩
    exact hout ⟨hbufs ▸ hb, hneg⟩
  case regs => rw [show (updFrm s).regs = s.regs from s.setQlspPrev_regs _]

end Sys2Proof.Machine

/-! # O57: the checks of R358 -/

namespace Sys2Proof.Machine

-- One proof at a time: proofs elaborated side by side each hold a thread and its stack (as in the tests).
set_option Elab.async false

/-! ## What the checks ask -/

theorem Regs.meetsAll_iff (rs : Regs) (needs : List Need) : rs.meetsAll needs = true
    ↔ ∀ need ∈ needs, ∀ k < need.count, rs.definedAt need.reg (need.first + k) = true := by
  simp only [Regs.meetsAll, List.all_eq_true, Regs.meets_iff]
  refine forall₂_congr fun need _ => ⟨fun h k hk => h _ (by omega) (by omega), fun h i hlo hhi => ?_⟩
  simpa [Nat.add_sub_cancel' hlo] using h (i - need.first) (by omega)

/-- A parameter whose declared width holds the values up to `m`. -/
theorem Regs.prmInRange_iff (rs : Regs) {i m : Nat} (h : 2 ^ prmWidth i = m + 1) :
    rs.prmInRange i = true ↔ rs.nat .prm i ≤ m := by
  rw [Regs.prmInRange, decide_eq_true_iff, h, Nat.lt_succ_iff]

section
variable {s : State} {sf : Subframe}

theorem lsfDecInRange_iff : lsfDecInRange s = true ↔ operandsInRange .lsfDec s := by
  have hfour : (List.range 4).all s.regs.prmInRange = true ↔ s.regs.nat .prm 0 ≤ 1 ∧ s.regs.nat .prm 1 ≤ 127
      ∧ s.regs.nat .prm 2 ≤ 31 ∧ s.regs.nat .prm 3 ≤ 31 := by
    rw [← s.regs.prmInRange_iff (i := 0) rfl, ← s.regs.prmInRange_iff (i := 1) rfl,
      ← s.regs.prmInRange_iff (i := 2) rfl, ← s.regs.prmInRange_iff (i := 3) rfl]
    simp [List.range_succ]
  rw [lsfDecInRange, Bool.or_eq_true, hfour]
  rfl

theorem pitInterpInRange_iff :
    (s.regs.lagInRange && fracInRange (s.regs.int .t0f 0)) = true ↔ operandsInRange (.pitInterp sf) s := by
  rw [Bool.and_eq_true, lagInRange_iff, fracInRange, decide_eq_true_iff]
  refine and_congr_right fun _ => ?_
  omega

theorem pitDecInRange_iff : pitDecInRange sf s = true ↔ operandsInRange (.pitDec sf) s := by
  cases sf
  · exact (Bool.or_eq_true ..).to_iff.trans (or_congr_right (s.regs.prmInRange_iff rfl))
  · exact (Bool.or_eq_true ..).to_iff.trans (or_congr_right (s.regs.prmInRange_iff rfl))

theorem fcbDecInRange_iff : fcbDecInRange sf s = true ↔ operandsInRange (.fcbDec sf) s := by
  have hc : 2 ^ prmWidth (6 + 5 * sf.idx) = 8191 + 1 := by cases sf <;> rfl
  have hsgn : 2 ^ prmWidth (7 + 5 * sf.idx) = 15 + 1 := by cases sf <;> rfl
  rw [fcbDecInRange, Bool.and_eq_true, Bool.or_eq_true, Bool.and_eq_true, lagInRange_iff,
    s.regs.prmInRange_iff hc, s.regs.prmInRange_iff hsgn]
  rfl

theorem gainDecInRange_iff : gainDecInRange sf s = true ↔ operandsInRange (.gainDec sf) s := by
  have ha : 2 ^ prmWidth (8 + 5 * sf.idx) = 7 + 1 := by cases sf <;> rfl
  have hb : 2 ^ prmWidth (9 + 5 * sf.idx) = 15 + 1 := by cases sf <;> rfl
  rw [gainDecInRange, Bool.or_eq_true, Bool.and_eq_true, s.regs.prmInRange_iff ha, s.regs.prmInRange_iff hb]
  rfl

end

/-! ## Every frame-level command is its checks, then its body -/

/-- A frame-level command checks its role set of R82, the operands of its rule and their ranges. -/
theorem exec_eq_checked {i : Instr} {roles : RoleSet} (hi : frameLevel i = true) (hr : roleSetOf i = some roles)
    (s : State) : ∃ inRange body, exec i s = checked roles (operandsOf i s) inRange s body
      ∧ (inRange = true ↔ operandsInRange i s) := by
  cases i with
  | chInit | chClose | frmBegin => cases hi
  | excMix | updFrm | lpWin | lpAcorr | lpLag | lpLev | lspRoot | lspInterp | lsfStab | lsfCos | pitConv | fcbConv
  | gainPred | gainQuant | fltSyn | fltRes | fltWgt | pfRes | pfTilt | pfSt | pfAgc =>
    obtain rfl := Option.some.inj hr
    exact ⟨true, _, rfl, fun _ => trivial, fun _ => rfl⟩
  | lspTolp sf =>
    obtain rfl := Option.some.inj hr
    cases sf
    · exact ⟨true, _, rfl, fun _ => trivial, fun _ => rfl⟩
    · exact ⟨true, _, rfl, fun _ => trivial, fun _ => rfl⟩
  | fltHp =>
    obtain rfl := Option.some.inj hr
    have hneeds : operandsOf .fltHp s = fltHpNeeds s.role := by
      unfold operandsOf
      cases s.role <;> rfl
    refine ⟨true, .next (realised cfg .fltHp s (fltHp cfg s)), ?_, fun _ => trivial, fun _ => rfl⟩
    rw [hneeds]
    rfl
  | pitCl sf =>
    obtain rfl := Option.some.inj hr
    cases sf
    · exact ⟨true, _, rfl, fun _ => trivial, fun _ => rfl⟩
    · exact ⟨_, _, rfl, decide_eq_true_iff⟩
  | pitDec sf =>
    obtain rfl := Option.some.inj hr
    cases sf
    · exact ⟨_, _, rfl, pitDecInRange_iff⟩
    · exact ⟨_, _, rfl, pitDecInRange_iff⟩
  | pitInterp =>
    obtain rfl := Option.some.inj hr
    exact ⟨_, _, rfl, pitInterpInRange_iff⟩
  | fcbSearch | pfLt =>
    obtain rfl := Option.some.inj hr
    exact ⟨_, _, rfl, lagInRange_iff _⟩
  | lsfDec =>
    obtain rfl := Option.some.inj hr
    exact ⟨_, _, rfl, lsfDecInRange_iff⟩
  | fcbDec =>
    obtain rfl := Option.some.inj hr
    exact ⟨_, _, rfl, fcbDecInRange_iff⟩
  | gainDec =>
    obtain rfl := Option.some.inj hr
    exact ⟨_, _, rfl, gainDecInRange_iff⟩

/-- `CH.CLOSE` and `FRM.BEGIN` are open to both roles and ask an open channel. -/
theorem lifecycle_admission {i : Instr} {roles : RoleSet} (hi : frameLevel i = false)
    (hr : roleSetOf i = some roles) (s : State) :
    (∀ role, roles.has role = true) ∧ (s.isOpen = false → exec i s = .refused .channelClosed) := by
  cases i with
  | chInit => cases hr
  | chClose | frmBegin =>
    obtain rfl := Option.some.inj hr
    exact ⟨fun role => by cases role <;> rfl, fun hopen => if_pos hopen⟩
  | _ => cases hi

/-! ## The first check that fails gives the reason -/

section
variable {s : State} {roles : RoleSet} {needs : List Need} {inRange : Bool} {body : Result}

theorem checked_of_closed (hopen : s.isOpen = false) :
    checked roles needs inRange s body = .refused .channelClosed :=
  if_pos hopen

theorem checked_of_wrongRole (hopen : s.isOpen = true) (hrole : roles.has s.role = false) :
    checked roles needs inRange s body = .refused .wrongRole := by
  simp [checked, hopen, hrole]

theorem checked_of_not_inFrame (hopen : s.isOpen = true) (hrole : roles.has s.role = true)
    (hframe : s.inFrame = false) : checked roles needs inRange s body = .refused .notInFrame := by
  simp [checked, hopen, hrole, hframe]

theorem checked_of_undefined (hopen : s.isOpen = true) (hrole : roles.has s.role = true)
    (hframe : s.inFrame = true) (hneeds : s.regs.meetsAll needs = false) :
    checked roles needs inRange s body = .refused .undefinedOperand := by
  simp [checked, hopen, hrole, hframe, hneeds]

theorem checked_of_outOfRange (hopen : s.isOpen = true) (hrole : roles.has s.role = true)
    (hframe : s.inFrame = true) (hneeds : s.regs.meetsAll needs = true) (hrange : inRange = false) :
    checked roles needs inRange s body = .refused .parameterRange := by
  simp [checked, hopen, hrole, hframe, hneeds, hrange]

end

/-- Settles O57: a frame-level command is `checked` on the operands and ranges of its rule; the two other
commands have check 2 of these alone. -/
theorem admissionInOrder : Obligations.AdmissionInOrder := by
  intro i s roles hr
  cases hi : frameLevel i
  case false =>
    obtain ⟨hall, hclosed⟩ := lifecycle_admission hi hr s
    refine ⟨hclosed, fun _ hrole => ?_, fun _ _ _ hframe => (by cases hframe),
      fun _ _ _ hframe => (by cases hframe)⟩
    cases (hall s.role).symm.trans hrole
  case true =>
    obtain ⟨inRange, body, hexec, hrange⟩ := exec_eq_checked hi hr s
    rw [hexec]
    refine ⟨checked_of_closed, checked_of_wrongRole, fun hopen hrole hframe _ =>
      checked_of_not_inFrame hopen hrole hframe, fun hopen hrole hframe _ => ⟨?undefined, fun hdef hout => ?range⟩⟩
    case undefined =>
      rintro ⟨need, hneed, k, hk, hundef⟩
      refine checked_of_undefined hopen hrole hframe (Bool.eq_false_iff.mpr fun hmeets => ?_)
      cases hundef.symm.trans ((s.regs.meetsAll_iff _).mp hmeets need hneed k hk)
    case range =>
      exact checked_of_outOfRange hopen hrole hframe ((s.regs.meetsAll_iff _).mpr hdef)
        (Bool.eq_false_iff.mpr fun h => hout (hrange.mp h))

end Sys2Proof.Machine

/-! # O54, O56: frame erasure (48_frame_erasure.md) -/

namespace Sys2Proof.Machine

-- One proof at a time: proofs elaborated side by side each hold a thread and its stack (as in the tests).
set_option Elab.async false

/-! ## The concealment state (R318, R319) -/

/-- The four concealing operations (R318). -/
def conceals : Instr → Bool
  | .lsfDec | .pitDec _ | .fcbDec _ | .gainDec _ => true
  | _ => false

/-- From `s` to `t` the decoder state has changed outside the concealment state alone. -/
def ConcealmentKept (s t : State) : Prop :=
  ∃ lsp agc mem, t.dec = { s.dec with qlspPrev := lsp, agcPrev := agc, hpMem := mem }

section
variable {s t u : State} {i : Instr} {sf : Subframe}

theorem concealmentKept_of_dec_eq (h : t.dec = s.dec) : ConcealmentKept s t := ⟨_, _, _, h⟩

theorem updFrm_concealmentKept (s : State) : ConcealmentKept s (updFrm s) := by
  obtain ⟨henc, hdec⟩ := updFrm_channel s
  cases hr : s.role
  case enc =>
    obtain ⟨-, hkept⟩ := henc hr
    exact concealmentKept_of_dec_eq hkept
  case dec =>
    obtain ⟨hwritten, -⟩ := hdec hr
    exact ⟨_, s.dec.agcPrev, s.dec.hpMem, hwritten⟩

theorem fltHp_concealmentKept (c : Config) (s : State) : ConcealmentKept s (fltHp c s) := by
  unfold fltHp
  split
  · exact concealmentKept_of_dec_eq rfl
  · exact ⟨s.dec.qlspPrev, s.dec.agcPrev, _, rfl⟩

theorem pfTilt_dec (c : Config) (s : State) (sf : Subframe) : (pfTilt c sf s).dec = s.dec := by
  rw [pfTilt_eq, State.writeFlag_dec, State.tiltWritten, State.setAll_dec, State.setAll_dec]

theorem pfLt_dec (c : Config) (s : State) (sf : Subframe) : (pfLt c sf s).dec = s.dec := by
  rw [pfLt, State.writeFlag_dec, State.fillSubframe_dec]

theorem pitDec_dec (c : Config) (s : State) (sf : Subframe) :
    (pitDec c sf s).dec = { s.dec with pitchLast := nextPitchLast c sf s } := by
  unfold pitDec
  rw [State.raiseFlag_dec]
  cases sf <;> rfl

/-- A completed command leaves its effect, where the machine's configuration is asked. -/
theorem eq_of_checked_realised {roles : RoleSet} {needs : List Need} {inRange : Bool}
    (h : checked roles needs inRange s (.next (realised cfg i s u)) = .next t) : t = u := by
  obtain ⟨-, hnext⟩ := has_role_of_checked h
  rw [realised_cfg] at hnext
  exact (Host.Outcome.next.inj hnext).symm

theorem concealmentKept_of_checked {roles : RoleSet} {needs : List Need} {inRange : Bool}
    (h : checked roles needs inRange s (.next (realised cfg i s u)) = .next t) (hu : ConcealmentKept s u) :
    ConcealmentKept s t :=
  eq_of_checked_realised h ▸ hu

/-- No command of the encoder alone writes decoder state. -/
theorem dec_eq_of_encoder (hi : frameLevel i = true) (hr : roleSetOf i = some .e) (h : exec i s = .next t) :
    t.dec = s.dec := by
  obtain ⟨_, _, hexec, -⟩ := exec_eq_checked hi hr s
  obtain ⟨hrole, -⟩ := has_role_of_checked (hexec.symm.trans h)
  exact (exec_staysInRole hi h).dec (role_of_has_e hrole)

theorem dec_eq_of_frmBegin {bfi pe : Bool} (h : exec (.frmBegin bfi pe) s = .next t) : t.dec = s.dec := by
  change execFrmBegin bfi pe s = .next t at h
  unfold execFrmBegin at h
  split_ifs at h
  exact (Host.Outcome.next.inj h) ▸ rfl

/-- R319: every command but those that open or close the channel and the four concealing ones. -/
theorem exec_concealmentKept (hi : conceals i = false) (hinit : ∀ role, i ≠ .chInit role) (hclose : i ≠ .chClose)
    (h : exec i s = .next t) : ConcealmentKept s t := by
  cases i with
  | chInit role => exact absurd rfl (hinit role)
  | chClose => exact absurd rfl hclose
  | lsfDec | pitDec | fcbDec | gainDec => cases hi
  | frmBegin => exact concealmentKept_of_dec_eq (dec_eq_of_frmBegin h)
  | lpWin | lpAcorr | lpLag | lpLev | lspRoot | pitCl | pitConv | fcbSearch | gainQuant | fltRes | fltWgt =>
    exact concealmentKept_of_dec_eq (dec_eq_of_encoder rfl rfl h)
  | lspInterp | lsfStab | lsfCos | pitInterp | fcbConv | gainPred =>
    exact concealmentKept_of_checked h (concealmentKept_of_dec_eq (State.setAll_dec ..))
  | lspTolp => exact concealmentKept_of_checked h (concealmentKept_of_dec_eq (State.setFrom_dec ..))
  | fltSyn | pfRes | pfSt =>
    exact concealmentKept_of_checked h (concealmentKept_of_dec_eq (State.fillSubframe_dec ..))
  | pfTilt => exact concealmentKept_of_checked h (concealmentKept_of_dec_eq (pfTilt_dec ..))
  | excMix sf =>
    obtain ⟨hdec, -⟩ := excMix_frame cfg sf s
    exact concealmentKept_of_checked h (concealmentKept_of_dec_eq hdec)
  | pfLt =>
    obtain ⟨-, hnext⟩ := has_role_of_checked h
    obtain ⟨-, hnext⟩ := require_eq_next.mp hnext
    exact Host.Outcome.next.inj hnext ▸ concealmentKept_of_dec_eq (pfLt_dec ..)
  | updFrm =>
    obtain ⟨-, hnext⟩ := has_role_of_checked h
    exact Host.Outcome.next.inj hnext ▸ updFrm_concealmentKept s
  | fltHp => exact concealmentKept_of_checked h (fltHp_concealmentKept cfg s)
  | pfAgc sf => exact concealmentKept_of_checked h ⟨s.dec.qlspPrev, _, s.dec.hpMem, pfAgc_dec s sf⟩

/-! What each of the four writes of the decoder state. -/

theorem exec_lsfDec_dec (h : exec .lsfDec s = .next t) :
    ∃ hist last l0, t.dec = { s.dec with lsfHist := hist, lsfLast := last, l0Last := l0 } := by
  rw [eq_of_checked_realised h, lsfDec]
  split
  · exact ⟨_, s.dec.lsfLast, s.dec.l0Last, rfl⟩
  · exact ⟨_, _, _, rfl⟩

theorem exec_pitDec_dec (h : exec (.pitDec sf) s = .next t) : ∃ lag, t.dec = { s.dec with pitchLast := lag } := by
  obtain ⟨-, hnext⟩ := has_role_of_checked h
  obtain ⟨-, hnext⟩ := require_eq_next.mp hnext
  obtain ⟨-, hnext⟩ := require_eq_next.mp hnext
  refine ⟨nextPitchLast cfg sf s, ?_⟩
  rw [← Host.Outcome.next.inj hnext, realised_cfg, pitDec_dec]

theorem exec_fcbDec_dec (h : exec (.fcbDec sf) s = .next t) : ∃ seed, t.dec = { s.dec with seed := seed } := by
  rw [eq_of_checked_realised h, fcbDec]
  split
  · exact ⟨_, rfl⟩
  · exact ⟨s.dec.seed, rfl⟩

theorem exec_gainDec_dec (h : exec (.gainDec sf) s = .next t) :
    ∃ raw bnd g hist, t.dec = { s.dec with gpRaw := raw, gpBnd := bnd, gc := g, gpeHist := hist } := by
  rw [eq_of_checked_realised h, gainDec]
  split
  · rw [gainDecErased, State.raiseFlag_dec]
    exact ⟨_, _, _, _, rfl⟩
  · exact ⟨_, _, _, _, rfl⟩

end

/-- Settles O54: a concealing operation writes its own part, every other command none. -/
theorem concealmentStateSurvives : Obligations.ConcealmentStateSurvives := by
  intro i s t h hinit hclose
  cases hi : conceals i
  case false =>
    obtain ⟨_, _, _, hdec⟩ := exec_concealmentKept hi hinit hclose h
    rw [hdec]
    exact ⟨fun _ => ⟨rfl, rfl, rfl⟩, fun _ => rfl, fun _ => ⟨rfl, rfl, rfl, rfl⟩, fun _ => rfl⟩
  case true =>
    cases i with
    | lsfDec =>
      obtain ⟨_, _, _, hdec⟩ := exec_lsfDec_dec h
      rw [hdec]
      exact ⟨fun hne => absurd rfl hne, fun _ => rfl, fun _ => ⟨rfl, rfl, rfl, rfl⟩, fun _ => rfl⟩
    | pitDec sf =>
      obtain ⟨_, hdec⟩ := exec_pitDec_dec h
      rw [hdec]
      exact ⟨fun _ => ⟨rfl, rfl, rfl⟩, fun hne => absurd rfl (hne sf), fun _ => ⟨rfl, rfl, rfl, rfl⟩,
        fun _ => rfl⟩
    | fcbDec sf =>
      obtain ⟨_, hdec⟩ := exec_fcbDec_dec h
      rw [hdec]
      exact ⟨fun _ => ⟨rfl, rfl, rfl⟩, fun _ => rfl, fun _ => ⟨rfl, rfl, rfl, rfl⟩,
        fun hne => absurd rfl (hne sf)⟩
    | gainDec sf =>
      obtain ⟨_, _, _, _, hdec⟩ := exec_gainDec_dec h
      rw [hdec]
      exact ⟨fun _ => ⟨rfl, rfl, rfl⟩, fun _ => rfl, fun hne => absurd rfl (hne sf), fun _ => rfl⟩
    | _ => cases hi

/-! ## An erased frame reads no element of `PRM` (R316) -/

/-- The state with `PRM` replaced. -/
def State.withPrm (v : RegVec 16 15) (s : State) : State := { s with regs := s.regs.put .prm v }

/-- An outcome with the next state replaced, if there is one. -/
def mapNext (f : State → State) : Result → Result
  | .next t => .next (f t)
  | .fault r => .fault r
  | .refused why => .refused why

section
variable {s : State} {sf : Subframe} (v : RegVec 16 15)

/-- Reads of the other registers do not see `PRM`. -/
theorem withPrm_read {reg : Reg} (h : reg ≠ .prm) (i : Nat) : (s.withPrm v).regs.int reg i = s.regs.int reg i
    ∧ (s.withPrm v).regs.definedAt reg i = s.regs.definedAt reg i := by
  obtain ⟨hint, -, hdef⟩ := Regs.read_congr (i := i) (congrArg (·.elD i none) (s.regs.get_put_of_ne h v))
  exact ⟨hint, hdef⟩

theorem withPrm_lagInRange : (s.withPrm v).regs.lagInRange = s.regs.lagInRange := by
  obtain ⟨hlag, -⟩ := withPrm_read (s := s) v (reg := .t0) (by decide) 0
  rw [Regs.lagInRange, hlag, Regs.lagInRange]

/-- Operands among which `PRM` is not are checked alike. -/
theorem withPrm_meetsAll {needs : List Need} (h : ∀ need ∈ needs, need.reg ≠ .prm) :
    (s.withPrm v).regs.meetsAll needs = s.regs.meetsAll needs := by
  refine Bool.eq_iff_iff.mpr ?_
  rw [Regs.meetsAll_iff, Regs.meetsAll_iff]
  refine forall₂_congr fun need hneed => forall₂_congr fun k _ => ?_
  obtain ⟨-, hdef⟩ := withPrm_read (s := s) v (h need hneed) (need.first + k)
  rw [hdef]

theorem checked_withPrm {roles : RoleSet} {needs : List Need} {inRange inRange' : Bool} {body body' : Result}
    (h : ∀ need ∈ needs, need.reg ≠ .prm) (hrange : inRange' = inRange)
    (hbody : body' = mapNext (State.withPrm v) body) :
    checked roles needs inRange' (s.withPrm v) body'
      = mapNext (State.withPrm v) (checked roles needs inRange s body) := by
  rw [checked_congr (s := s) (s' := s.withPrm v) rfl (withPrm_meetsAll v h) hrange hbody]
  simp only [checked, apply_ite (mapNext _)]
  rfl

theorem require_mapNext (ok : Bool) (why : Refusal) (f : State → State) (body : Result) :
    require ok why (mapNext f body) = mapNext f (require ok why body) := by
  cases ok <;> rfl

/-! The four operations on an erased frame: what they read and write. -/

theorem exec_lsfDec_eq_of_erased (hbfi : s.bfi = true) :
    exec .lsfDec s = checked .d [] true s (.next (lsfDecErased cfg s)) := by
  show execLsfDec s = _
  simp [execLsfDec, lsfDecNeeds, lsfDecInRange, lsfDec, hbfi]

theorem exec_pitDec_eq_of_erased (hbfi : s.bfi = true) : exec (.pitDec sf) s
    = checked .d [] true s (require (lagReadable s.dec.pitchLast.toInt 0) .parameterRange
        (require (lagInHistory sf s.dec.pitchLast.toInt 0) .bufferBounds (.next (pitDec cfg sf s)))) := by
  have hlost : s.pitchLost sf = true := by simp [pitchLost_eq, hbfi]
  show execPitDec sf s = _
  simp [execPitDec, pitDecNeeds, pitDecInRange, decLag, hlost]

theorem exec_fcbDec_eq_of_erased (hbfi : s.bfi = true) :
    exec (.fcbDec sf) s = checked .d [.all .t0] s.regs.lagInRange s (.next (fcbDec cfg sf s)) := by
  show execFcbDec sf s = _
  simp [execFcbDec, fcbDecNeeds, fcbDecInRange, hbfi]

theorem exec_gainDec_eq_of_erased (hbfi : s.bfi = true) :
    exec (.gainDec sf) s = checked .d [] true s (.next (gainDecErased cfg s)) := by
  show execGainDec sf s = _
  simp [execGainDec, gainDecNeeds, gainDecInRange, gainDec, hbfi]

/-! The updates they are built of commute with replacing `PRM`. -/

theorem withPrm_dec : (s.withPrm v).dec = s.dec := rfl

theorem withPrm_bufs : (s.withPrm v).bufs = s.bufs := rfl

theorem put_put_prm (rs : Regs) {reg : Reg} (h : reg ≠ .prm) (w : RegVec reg.width reg.len) :
    (rs.put .prm v).put reg w = (rs.put reg w).put .prm v := by
  cases reg
  case prm => exact absurd rfl h
  all_goals rfl

theorem setAll_withPrm {reg : Reg} (h : reg ≠ .prm) (f : Nat → BitVec reg.width) :
    (s.withPrm v).setAll reg f = (s.setAll reg f).withPrm v :=
  congrArg (fun rs => { s with regs := rs }) (put_put_prm v s.regs h _)

theorem setPitch_withPrm (lag f : Int) (w : List I16) :
    (s.withPrm v).setPitch lag f w = (s.setPitch lag f w).withPrm v := by
  simp only [State.setPitch, ne_eq, reduceCtorEq, not_false_eq_true, setAll_withPrm]

theorem setPitchLast_withPrm (lag : I16) : (s.withPrm v).setPitchLast lag = (s.setPitchLast lag).withPrm v := rfl

theorem setWindow_withPrm (c : Config) (lag : Int) :
    State.setWindow c (s.withPrm v) lag = (State.setWindow c s lag).withPrm v := by
  simp only [State.setWindow, ne_eq, reduceCtorEq, not_false_eq_true, setAll_withPrm]

theorem raiseFlag_withPrm (fl : StatFlag) (b : Bool) :
    (s.withPrm v).raiseFlag fl b = (s.raiseFlag fl b).withPrm v := by
  cases b <;> rfl

theorem lsfDecErased_withPrm (c : Config) : lsfDecErased c (s.withPrm v) = (lsfDecErased c s).withPrm v := rfl

theorem pitDec_withPrm (c : Config) (hbfi : s.bfi = true) :
    pitDec c sf (s.withPrm v) = (pitDec c sf s).withPrm v := by
  have hlost : s.pitchLost sf = true := by simp [pitchLost_eq, hbfi]
  have hlost' : (s.withPrm v).pitchLost sf = true := hlost
  cases sf
  all_goals simp only [pitDec, decLag, nextPitchLast, hlost, hlost', if_true, withPrm_dec, withPrm_bufs,
    setPitch_withPrm, setPitchLast_withPrm, setWindow_withPrm, raiseFlag_withPrm]

theorem fcbDec_withPrm (c : Config) (hbfi : s.bfi = true) :
    fcbDec c sf (s.withPrm v) = (fcbDec c sf s).withPrm v := by
  have hbfi' : (s.withPrm v).bfi = true := hbfi
  simp only [fcbDec, hbfi, hbfi', if_true]
  rfl

theorem gainDecErased_withPrm (c : Config) : gainDecErased c (s.withPrm v) = (gainDecErased c s).withPrm v := rfl

/-- R316: replacing `PRM` before a concealing operation of an erased frame is replacing it after. -/
theorem exec_withPrm {i : Instr} (hbfi : s.bfi = true) (hi : conceals i = true) :
    exec i (s.withPrm v) = mapNext (State.withPrm v) (exec i s) := by
  have hbfi' : (s.withPrm v).bfi = true := hbfi
  cases i with
  | lsfDec =>
    rw [exec_lsfDec_eq_of_erased hbfi, exec_lsfDec_eq_of_erased hbfi', lsfDecErased_withPrm]
    exact checked_withPrm v (by simp) rfl rfl
  | pitDec sf =>
    rw [exec_pitDec_eq_of_erased hbfi, exec_pitDec_eq_of_erased hbfi', pitDec_withPrm v cfg hbfi]
    refine checked_withPrm v (by simp) rfl ?_
    rw [← require_mapNext, ← require_mapNext]
    rfl
  | fcbDec sf =>
    rw [exec_fcbDec_eq_of_erased hbfi, exec_fcbDec_eq_of_erased hbfi', fcbDec_withPrm v cfg hbfi]
    exact checked_withPrm v (by simp [Need.all]) (withPrm_lagInRange v) rfl
  | gainDec sf =>
    rw [exec_gainDec_eq_of_erased hbfi, exec_gainDec_eq_of_erased hbfi', gainDecErased_withPrm]
    exact checked_withPrm v (by simp) rfl rfl
  | _ => cases hi

end

/-- Settles O56: the outcome with `PRM` replaced is the outcome, with `PRM` replaced. -/
theorem erasedFrameIgnoresPrm : Obligations.ErasedFrameIgnoresPrm := by
  intro i s v hbfi hi
  have hconceals : conceals i = true := by
    rcases hi with rfl | ⟨sf, rfl | rfl | rfl⟩ <;> rfl
  have hexec : exec i { s with regs := { s.regs with prm := v } } = mapNext (State.withPrm v) (exec i s) :=
    exec_withPrm v hbfi hconceals
  refine ⟨fun why h => ?_, fun t h => ?_⟩
  · rw [hexec, h]
    rfl
  · rw [hexec, h]
    rfl

end Sys2Proof.Machine
